-- ==== Sys2Proof/Word.lean ====
section
/-! DEFINITION. The word types of the microcode codec block and the one plain arithmetic helper of the spec's
notation (00_scope.md rules R11, R12). Everything a test could show wrong stands in Decode.lean or Machine/. -/

namespace Sys2Proof

/-- One byte of an input or output stream (20_memory.md rule R60). -/
abbrev Byte := BitVec 8

/-- One microcode instruction word (30_encoding.md rule R83). -/
abbrev Word := BitVec 64

/-- The 12-bit opcode field (00_scope.md rule R8, `OPC_W`). -/
abbrev Opcode := BitVec 12

/-- The family value of an extended mnemonic, the top four bits of its opcode (30_encoding.md rule R101, `FAM`). -/
abbrev Family := BitVec 4

/-- An immediate as it enters the block: a 32-bit two's-complement word (00_scope.md rule R12). -/
abbrev Imm := BitVec 32

/-- `mask(n) = (1 << n) - 1` (00_scope.md rule R11). -/
def mask (n : Nat) : Nat := 2 ^ n - 1

end Sys2Proof
end

