-- ==== Sys2Proof/Syntax.lean ====
section
/-! DEFINITION. The block's inputs and outputs as typed statements: operands (30_encoding.md rule R81), instruction
statements, one constructor for each row of the opcode table (rules R100, R108), the encoder's statements
(45_resolution.md rule R259), the decoder's statements (47_decoder.md rules R323 to R325), the operand fields of a
record (10_state.md rule R36) and the initvals operations (48_initvals.md rule R350). -/

namespace Sys2Proof

/-- The three register kinds of an operand (30_encoding.md rule R81). -/
inductive RegKind where
  | gpr
  | spr
  | offr
deriving DecidableEq, Repr

/-- The three label-reference directions (45_resolution.md rule R272). -/
inductive RefDir where
  | absolute
  | backward
  | forward
deriving DecidableEq, Repr

/-- An operand (30_encoding.md rule R81, with the spec's `LinkReg` and `Number`). `number` carries an integer:
41_extended.md rule R170 speaks of a `Number(v)` with `v < 0`. -/
inductive Operand where
  | imm (v : Imm)
  | reg (kind : RegKind) (n : Nat)
  | direct (off : Nat)
  | indirect (off offr : Nat)
  | labelRef (name : String) (dir : RefDir)
  | address (t : Nat)
  | raw (v : Nat)
  | linkReg (n : Nat)
  | number (v : Int)
deriving DecidableEq, Repr

/-- What a `PENDING` operand field waits for (30_encoding.md rule R93). -/
inductive Ref where
  | label (name : String) (dir : RefDir)
  | address (t : Nat)
deriving DecidableEq, Repr

/-- An operand field of a code record: a number, or `PENDING` until address resolution (30_encoding.md rule R87).
A number is an unbounded natural: only the packer cuts it to `FW` bits (46_emission.md rule R291). -/
inductive Field where
  | value (v : Nat)
  | pending (r : Ref)
deriving DecidableEq, Repr

/-- An instruction statement, one constructor for each row of spec/opcode_table.json, with the logical operands of
30_encoding.md rule R108 in their order. -/
inductive Instr where
  -- STD3 (40_alu.md)
  | mul (a b d : Operand)
  | add (a b d : Operand)
  | addDot (a b d : Operand)
  | addc (a b d : Operand)
  | addcDot (a b d : Operand)
  | sub (a b d : Operand)
  | subDot (a b d : Operand)
  | subc (a b d : Operand)
  | subcDot (a b d : Operand)
  | sra (a b d : Operand)
  | or (a b d : Operand)
  | and (a b d : Operand)
  | xor (a b d : Operand)
  | sr (a b d : Operand)
  | sl (a b d : Operand)
  | rl (a b d : Operand)
  | rr (a b d : Operand)
  | nand (a b d : Operand)
  -- TKIP2 (40_alu.md)
  | tkiph (a d : Operand)
  | tkiphs (a d : Operand)
  | tkipl (a d : Operand)
  | tkipls (a d : Operand)
  -- EXT_ALU, EXT_JMP, EXT_COND (41_extended.md)
  | srx (m s a b d : Operand)
  | orx (m s a b d : Operand)
  | jzx (m s a b target : Operand)
  | jnzx (m s a b target : Operand)
  | jext (c a b target : Operand)
  | jnext (c a b target : Operand)
  -- CJMP (42_jumps.md)
  | jand (a b target : Operand)
  | jnand (a b target : Operand)
  | js (a b target : Operand)
  | jns (a b target : Operand)
  | je (a b target : Operand)
  | jne (a b target : Operand)
  | jls (a b target : Operand)
  | jges (a b target : Operand)
  | jgs (a b target : Operand)
  | jles (a b target : Operand)
  | jdn (a b target : Operand)
  | jdpz (a b target : Operand)
  | jdp (a b target : Operand)
  | jdnz (a b target : Operand)
  | jl (a b target : Operand)
  | jge (a b target : Operand)
  | jg (a b target : Operand)
  | jle (a b target : Operand)
  -- CALL, CALLS, RET, RETS, NAP, RAW (43_call_ret_nap.md)
  | call (lr target : Operand)
  | calls (target : Operand)
  | ret (lrA lrB lrC : Operand)
  | rets
  | nap
  | raw (h : Nat) (f0 f1 f2 : Operand)
  -- PSEUDO (44_pseudo.md)
  | mov (src dst : Operand)
  | jmp (target : Operand)
deriving DecidableEq, Repr

/-- A mnemonic as a statement carries it: a name, or the raw form `@h` with its opcode number (43_call_ret_nap.md
rule R236). -/
inductive Mnemonic where
  | name (s : String)
  | raw (h : Nat)
deriving DecidableEq, Repr

/-- One statement of the encoder's input (45_resolution.md rule R259), with its source location where it has one. -/
inductive Stmt where
  | insn (m : Mnemonic) (ops : List Operand) (loc : Option Nat)
  | label (name : String) (loc : Option Nat)
  | arch (n : Int) (loc : Option Nat)
  | start (name : String) (loc : Option Nat)
deriving DecidableEq, Repr

/-- One statement of the decoder's output stream (47_decoder.md rules R323, R324): an instruction statement carries
its linear address (rule R345). -/
inductive DecStmt where
  | arch (n : Int)
  | start (name : String)
  | label (name : String)
  | insn (addr : Nat) (i : Instr)
deriving DecidableEq, Repr

/-- One typed write operation of an initvals section (48_initvals.md rule R350). Arguments are naturals. -/
inductive InitvalOp where
  | mmio16 (off v : Nat)
  | mmio32 (off v : Nat)
  | phy (reg v : Nat)
  | radio (reg v : Nat)
  | shm16 (routing off v : Nat)
  | shm32 (routing off v : Nat)
  | tram (off v : Nat)
deriving DecidableEq, Repr

end Sys2Proof
end

