-- ==== Sys2Proof/Machine/Statements.lean ====
section
/-! DEFINITION. The map between an instruction statement as the encoder receives it, a mnemonic with its ordered operand
list, and `Instr` (45_resolution.md rules R259, R262): the tables of 30_encoding.md rule R108 by operand count. A mnemonic
of no table, or one with another operand count, has no `Instr` (the encoder then raises `E15`). -/

namespace Sys2Proof.Statements

/-- The mnemonics that take no operand. -/
def table0 : List (String × Instr) := [("rets", .rets), ("nap", .nap)]

/-- The mnemonics that take one operand. -/
def table1 : List (String × (Operand → Instr)) := [("calls", .calls), ("jmp", .jmp)]

/-- The mnemonics that take two operands. -/
def table2 : List (String × (Operand → Operand → Instr)) :=
  [("tkiph", .tkiph), ("tkiphs", .tkiphs), ("tkipl", .tkipl), ("tkipls", .tkipls), ("call", .call), ("mov", .mov)]

/-- The mnemonics that take three operands. -/
def table3 : List (String × (Operand → Operand → Operand → Instr)) :=
  [("mul", .mul), ("add", .add), ("add.", .addDot), ("addc", .addc), ("addc.", .addcDot), ("sub", .sub),
    ("sub.", .subDot), ("subc", .subc), ("subc.", .subcDot), ("sra", .sra), ("or", .or), ("and", .and),
    ("xor", .xor), ("sr", .sr), ("sl", .sl), ("rl", .rl), ("rr", .rr), ("nand", .nand)] ++
  [("jand", .jand), ("jnand", .jnand), ("js", .js), ("jns", .jns), ("je", .je), ("jne", .jne),
    ("jls", .jls), ("jges", .jges), ("jgs", .jgs), ("jles", .jles), ("jdn", .jdn), ("jdpz", .jdpz),
    ("jdp", .jdp), ("jdnz", .jdnz), ("jl", .jl), ("jge", .jge), ("jg", .jg), ("jle", .jle),
    ("ret", .ret)]

/-- The mnemonics that take four operands. -/
def table4 : List (String × (Operand → Operand → Operand → Operand → Instr)) := [("jext", .jext), ("jnext", .jnext)]

/-- The mnemonics that take five operands. -/
def table5 : List (String × (Operand → Operand → Operand → Operand → Operand → Instr)) :=
  [("srx", .srx), ("orx", .orx), ("jzx", .jzx), ("jnzx", .jnzx)]

/-- The instruction of a statement, `none` where its mnemonic is not in the table or its operand count is not the
mnemonic's (30_encoding.md rule R108, 45_resolution.md rules R259, R262). -/
def ofParts : Mnemonic → List Operand → Option Instr
  | .raw h, [x, y, z] => some (.raw h x y z)
  | .raw _, _ => none
  | .name s, [] => table0.lookup s
  | .name s, [a] => (table1.lookup s).map fun f => f a
  | .name s, [a, b] => (table2.lookup s).map fun f => f a b
  | .name s, [a, b, c] => (table3.lookup s).map fun f => f a b c
  | .name s, [a, b, c, d] => (table4.lookup s).map fun f => f a b c d
  | .name s, [a, b, c, d, e] => (table5.lookup s).map fun f => f a b c d e
  | .name _, _ => none

/-- The mnemonic of an instruction. -/
def mnemonicOf : Instr → Mnemonic
  | .mul .. => .name "mul"
  | .add .. => .name "add"
  | .addDot .. => .name "add."
  | .addc .. => .name "addc"
  | .addcDot .. => .name "addc."
  | .sub .. => .name "sub"
  | .subDot .. => .name "sub."
  | .subc .. => .name "subc"
  | .subcDot .. => .name "subc."
  | .sra .. => .name "sra"
  | .or .. => .name "or"
  | .and .. => .name "and"
  | .xor .. => .name "xor"
  | .sr .. => .name "sr"
  | .sl .. => .name "sl"
  | .rl .. => .name "rl"
  | .rr .. => .name "rr"
  | .nand .. => .name "nand"
  | .tkiph .. => .name "tkiph"
  | .tkiphs .. => .name "tkiphs"
  | .tkipl .. => .name "tkipl"
  | .tkipls .. => .name "tkipls"
  | .srx .. => .name "srx"
  | .orx .. => .name "orx"
  | .jzx .. => .name "jzx"
  | .jnzx .. => .name "jnzx"
  | .jext .. => .name "jext"
  | .jnext .. => .name "jnext"
  | .jand .. => .name "jand"
  | .jnand .. => .name "jnand"
  | .js .. => .name "js"
  | .jns .. => .name "jns"
  | .je .. => .name "je"
  | .jne .. => .name "jne"
  | .jls .. => .name "jls"
  | .jges .. => .name "jges"
  | .jgs .. => .name "jgs"
  | .jles .. => .name "jles"
  | .jdn .. => .name "jdn"
  | .jdpz .. => .name "jdpz"
  | .jdp .. => .name "jdp"
  | .jdnz .. => .name "jdnz"
  | .jl .. => .name "jl"
  | .jge .. => .name "jge"
  | .jg .. => .name "jg"
  | .jle .. => .name "jle"
  | .call .. => .name "call"
  | .calls .. => .name "calls"
  | .ret .. => .name "ret"
  | .rets => .name "rets"
  | .nap => .name "nap"
  | .raw h _ _ _ => .raw h
  | .mov .. => .name "mov"
  | .jmp _ => .name "jmp"

/-- The operands of an instruction in the order of 30_encoding.md rule R108, auxiliary numbers first (47_decoder.md rule
R325). -/
def operandsOf : Instr → List Operand
  | .mul a b d => [a, b, d]
  | .add a b d => [a, b, d]
  | .addDot a b d => [a, b, d]
  | .addc a b d => [a, b, d]
  | .addcDot a b d => [a, b, d]
  | .sub a b d => [a, b, d]
  | .subDot a b d => [a, b, d]
  | .subc a b d => [a, b, d]
  | .subcDot a b d => [a, b, d]
  | .sra a b d => [a, b, d]
  | .or a b d => [a, b, d]
  | .and a b d => [a, b, d]
  | .xor a b d => [a, b, d]
  | .sr a b d => [a, b, d]
  | .sl a b d => [a, b, d]
  | .rl a b d => [a, b, d]
  | .rr a b d => [a, b, d]
  | .nand a b d => [a, b, d]
  | .tkiph a d => [a, d]
  | .tkiphs a d => [a, d]
  | .tkipl a d => [a, d]
  | .tkipls a d => [a, d]
  | .srx m s a b d => [m, s, a, b, d]
  | .orx m s a b d => [m, s, a, b, d]
  | .jzx m s a b t => [m, s, a, b, t]
  | .jnzx m s a b t => [m, s, a, b, t]
  | .jext c a b t => [c, a, b, t]
  | .jnext c a b t => [c, a, b, t]
  | .jand a b t => [a, b, t]
  | .jnand a b t => [a, b, t]
  | .js a b t => [a, b, t]
  | .jns a b t => [a, b, t]
  | .je a b t => [a, b, t]
  | .jne a b t => [a, b, t]
  | .jls a b t => [a, b, t]
  | .jges a b t => [a, b, t]
  | .jgs a b t => [a, b, t]
  | .jles a b t => [a, b, t]
  | .jdn a b t => [a, b, t]
  | .jdpz a b t => [a, b, t]
  | .jdp a b t => [a, b, t]
  | .jdnz a b t => [a, b, t]
  | .jl a b t => [a, b, t]
  | .jge a b t => [a, b, t]
  | .jg a b t => [a, b, t]
  | .jle a b t => [a, b, t]
  | .call lr t => [lr, t]
  | .calls t => [t]
  | .ret x y z => [x, y, z]
  | .rets => []
  | .nap => []
  | .raw _ x y z => [x, y, z]
  | .mov src dst => [src, dst]
  | .jmp t => [t]

/-- An upper-case hexadecimal digit. -/
def hexDigit (n : Nat) : Char := "0123456789ABCDEF".toList.getD (n % 16) '0'

/-- How a record or a diagnostic spells a mnemonic: the raw form with its three hexadecimal digits (47_decoder.md rule
R343). -/
def spell : Mnemonic → String
  | .name s => s
  | .raw h => String.ofList ['@', hexDigit (h / 256), hexDigit (h / 16), hexDigit h]

/-- A decoded instruction with its jump target replaced: the label reference of 47_decoder.md rule R320 in place of the
address. An instruction that is not jump-class is unchanged. -/
def mapTarget (f : Operand → Operand) : Instr → Instr
  | .jzx m s a b t => .jzx m s a b (f t)
  | .jnzx m s a b t => .jnzx m s a b (f t)
  | .jext c a b t => .jext c a b (f t)
  | .jnext c a b t => .jnext c a b (f t)
  | .jand a b t => .jand a b (f t)
  | .jnand a b t => .jnand a b (f t)
  | .js a b t => .js a b (f t)
  | .jns a b t => .jns a b (f t)
  | .je a b t => .je a b (f t)
  | .jne a b t => .jne a b (f t)
  | .jls a b t => .jls a b (f t)
  | .jges a b t => .jges a b (f t)
  | .jgs a b t => .jgs a b (f t)
  | .jles a b t => .jles a b (f t)
  | .jdn a b t => .jdn a b (f t)
  | .jdpz a b t => .jdpz a b (f t)
  | .jdp a b t => .jdp a b (f t)
  | .jdnz a b t => .jdnz a b (f t)
  | .jl a b t => .jl a b (f t)
  | .jge a b t => .jge a b (f t)
  | .jg a b t => .jg a b (f t)
  | .jle a b t => .jle a b (f t)
  | .call lr t => .call lr (f t)
  | .calls t => .calls (f t)
  | .jmp t => .jmp (f t)
  | .mul a b d => .mul a b d
  | .add a b d => .add a b d
  | .addDot a b d => .addDot a b d
  | .addc a b d => .addc a b d
  | .addcDot a b d => .addcDot a b d
  | .sub a b d => .sub a b d
  | .subDot a b d => .subDot a b d
  | .subc a b d => .subc a b d
  | .subcDot a b d => .subcDot a b d
  | .sra a b d => .sra a b d
  | .or a b d => .or a b d
  | .and a b d => .and a b d
  | .xor a b d => .xor a b d
  | .sr a b d => .sr a b d
  | .sl a b d => .sl a b d
  | .rl a b d => .rl a b d
  | .rr a b d => .rr a b d
  | .nand a b d => .nand a b d
  | .tkiph a d => .tkiph a d
  | .tkiphs a d => .tkiphs a d
  | .tkipl a d => .tkipl a d
  | .tkipls a d => .tkipls a d
  | .srx m s a b d => .srx m s a b d
  | .orx m s a b d => .orx m s a b d
  | .ret x y z => .ret x y z
  | .rets => .rets
  | .nap => .nap
  | .raw h x y z => .raw h x y z
  | .mov src dst => .mov src dst

end Sys2Proof.Statements
end

