-- ==== Sys2Proof/Config.lean ====
section
/-! DEFINITION. What is fixed for the life of the block: the two revisions and the widths the source fixes
(00_scope.md rule R8), the parameters of the configuration record with their defaults (rules R9, R10, 30_encoding.md
rule R100, 48_initvals.md rule R352), and the free values the spec leaves unspecified. -/

namespace Sys2Proof

/-- The two architecture revisions (00_scope.md rule R7). `UNSET` is `none` of `Option Arch` (10_state.md rule R30). -/
inductive Arch where
  | rev5
  | rev15
deriving DecidableEq, Repr

/-- On-disk microcode byte orders (10_state.md rule R32). -/
inductive OutFmt where
  | b43
  | rawLe32
  | rawBe32
deriving DecidableEq, Repr

/-- Initvals list formats (10_state.md rule R33). -/
inductive IvFmt where
  | legacy
  | raw
deriving DecidableEq, Repr

/-- The form of the emulated wide `mov` (00_scope.md rule R10, 44_pseudo.md rule R250). -/
inductive MovEmul where
  | singleOrx
  | orLoThenOrxHi
deriving DecidableEq, Repr

namespace Config

/-- `FW`, the width of an operand field (00_scope.md rule R8). -/
def fw : Arch → Nat
  | .rev5 => 12
  | .rev15 => 13

/-- `SH_OP1` (00_scope.md rule R8; `SH_OP2` is 0). -/
def shOp1 : Arch → Nat
  | .rev5 => 12
  | .rev15 => 13

/-- `SH_OP0` (00_scope.md rule R8). -/
def shOp0 : Arch → Nat
  | .rev5 => 24
  | .rev15 => 26

/-- `SH_OPC` (00_scope.md rule R8). -/
def shOpc : Arch → Nat
  | .rev5 => 36
  | .rev15 => 39

/-- `WORD_USED`, the bits of a word that may be non-zero (00_scope.md rule R8). -/
def wordUsed : Arch → Nat
  | .rev5 => 48
  | .rev15 => 51

/-- `IMM_W` (00_scope.md rule R8, 90_conflicts.md C1). -/
def immW : Arch → Nat
  | .rev5 => 10
  | .rev15 => 11

/-- `IMM_TAG` (00_scope.md rule R8). -/
def immTag : Arch → Nat
  | .rev5 => 0xC00
  | .rev15 => 0x1800

/-- `GPR_W` (00_scope.md rule R8). -/
def gprW : Arch → Nat
  | .rev5 => 6
  | .rev15 => 7

/-- `SPR_W` (00_scope.md rule R8). -/
def sprW : Arch → Nat
  | .rev5 => 9
  | .rev15 => 10

/-- `DIR_W` (00_scope.md rule R8). -/
def dirW : Arch → Nat
  | .rev5 => 11
  | .rev15 => 12

/-- `IND_OFF_W` (00_scope.md rule R8). -/
def indOffW : Nat := 6

/-- `OFFR_MASK_W` as the source states it: kept as documentation, used by no rule (90_conflicts.md C3). -/
def offrMaskW : Nat := 4

/-- `MAX_INSNS(Rev5)` (00_scope.md rule R8). -/
def maxInsnsRev5 : Nat := 4096

/-- The architecture directive's value for a revision (47_decoder.md rule R323). -/
def archNumber : Arch → Int
  | .rev5 => 5
  | .rev15 => 15

/-- The condition number of the always-true external condition (44_pseudo.md rule R252). -/
def condAlways : Nat := 0x7F

/-- The fixed mask and shift of the `mov` emulation (44_pseudo.md rule R250). -/
def movMask : Nat := 7

/-- See `movMask`. -/
def movShift : Nat := 8

/-- The bytes `OUT` holds after a fatal error: unspecified (10_state.md rule R44, 93_implementation_defined.md I1).
A free value, a fresh one for each use. -/
opaque freeOut : Nat → List Byte

/-- The statements `OUT` of the decoder holds after a fatal error: unspecified (10_state.md rule R44). A free value. -/
opaque freeStmts : Nat → List DecStmt

/-- The value of `ADDR` between two address-assignment passes: unspecified (10_state.md rule R37). A free value. -/
opaque freeAddr : Nat → Nat

end Config

/-- `LAYOUT(ARCH)`: the operand-field constants the source does not give (00_scope.md rule R9). -/
structure Layout where
  gprTag : Nat
  gprCls : Nat
  sprTag : Nat
  indTag : Nat
  cls3 : Nat
  immCls : Nat
  offrShift : Nat
  offrFieldW : Nat
  offrMax : Nat
  indRsvd : Nat
deriving DecidableEq, Repr

/-- The Rev5 defaults of 00_scope.md rule R9 (`IND_RSVD` none: no bit). -/
def Layout.rev5 : Layout where
  gprTag := 0xBC0
  gprCls := 0xFC0
  sprTag := 0x800
  indTag := 0xA00
  cls3 := 0xE00
  immCls := 0xC00
  offrShift := 6
  offrFieldW := 3
  offrMax := 6
  indRsvd := 0

/-- The Rev15 defaults of 00_scope.md rule R9. -/
def Layout.rev15 : Layout where
  gprTag := 0x1780
  gprCls := 0x1F80
  sprTag := 0x1000
  indTag := 0x1400
  cls3 := 0x1C00
  immCls := 0x1800
  offrShift := 7
  offrFieldW := 3
  offrMax := 6
  indRsvd := 0x40

/-- `OPCODE(m)` of every mnemonic of the table of 30_encoding.md rule R100, with its default: the 45 exact opcodes, and
the values of the six extended families, whose other eight bits an instruction's operands give (rule R101). -/
structure Opcodes where
  mul : Opcode := 0x101
  add : Opcode := 0x1C0
  addDot : Opcode := 0x1C2
  addc : Opcode := 0x1C1
  addcDot : Opcode := 0x1C3
  sub : Opcode := 0x1D0
  subDot : Opcode := 0x1D2
  subc : Opcode := 0x1D1
  subcDot : Opcode := 0x1D3
  sra : Opcode := 0x130
  or : Opcode := 0x160
  and : Opcode := 0x140
  xor : Opcode := 0x170
  sr : Opcode := 0x120
  sl : Opcode := 0x110
  rl : Opcode := 0x1A0
  rr : Opcode := 0x1B0
  nand : Opcode := 0x150
  tkiph : Opcode := 0x1E0
  tkiphs : Opcode := 0x1E1
  tkipl : Opcode := 0x1E2
  tkipls : Opcode := 0x1E3
  jand : Opcode := 0x040
  jnand : Opcode := 0x041
  js : Opcode := 0x050
  jns : Opcode := 0x051
  je : Opcode := 0x0D0
  jne : Opcode := 0x0D1
  jls : Opcode := 0x0D2
  jges : Opcode := 0x0D3
  jgs : Opcode := 0x0D4
  jles : Opcode := 0x0D5
  jdn : Opcode := 0x0D6
  jdpz : Opcode := 0x0D7
  jdp : Opcode := 0x0D8
  jdnz : Opcode := 0x0D9
  jl : Opcode := 0x0DA
  jge : Opcode := 0x0DB
  jg : Opcode := 0x0DC
  jle : Opcode := 0x0DD
  call : Opcode := 0x002
  calls : Opcode := 0x004
  ret : Opcode := 0x003
  rets : Opcode := 0x005
  nap : Opcode := 0x001
  srx : Family := 0x2
  orx : Family := 0x3
  jzx : Family := 0x4
  jnzx : Family := 0x5
  jnext : Family := 0x6
  jext : Family := 0x7
deriving DecidableEq, Repr

/-- The fixed operand-field values of the special forms, `CONST_*` (00_scope.md rule R10). -/
structure Constants where
  call1 : Nat := 0
  calls0 : Nat := 0
  calls1 : Nat := 0
  rets0 : Nat := 0
  rets1 : Nat := 0
  rets2 : Nat := 0
  nap0 : Nat := 0
  nap1 : Nat := 0
  nap2 : Nat := 0
  tkip1 : Nat := 0
deriving DecidableEq, Repr

/-- The MMIO addresses the initvals expansions write, `MMIO_*` (48_initvals.md rule R352). -/
structure Mmio where
  shmControl : Nat := 0x0160
  shmData : Nat := 0x0164
  shmDataUnaligned : Nat := 0x0166
  phyControl : Nat := 0x03FC
  phyData : Nat := 0x03FE
  radioControl : Nat := 0x03F6
  radioDataLow : Nat := 0x03FA
  ramControl : Nat := 0x0130
  ramData : Nat := 0x0134
deriving DecidableEq, Repr

/-- The layout of the SHM control word, `CTL` (48_initvals.md rule R356, 93_implementation_defined.md I28): the places of
the routing byte and of the index in the word, and how many low bits of the byte offset the index leaves out. -/
structure ShmControl where
  routingShift : Nat := 16
  indexShift : Nat := 0
  offsetShift : Nat := 2
deriving DecidableEq, Repr

/-- The parameters of the configuration record that are fixed for the life of the block (10_state.md rule R30, last
row), each with its default (00_scope.md rules R8 to R10). `LR_COUNT` and `LR_FIELD(n)` are one list, the field value of
link register `n` at place `n`. -/
structure Params where
  layout5 : Layout := Layout.rev5
  layout15 : Layout := Layout.rev15
  opcodes : Opcodes := {}
  movEmul : MovEmul := .singleOrx
  lrFields : List Nat := [0, 1, 2, 3]
  constants : Constants := {}
  hdrTypeUcode : Byte := 0x75
  hdrTypeIv : Byte := 0x69
  hdrTypePcm : Byte := 0x70
  hdrVersion : Byte := 0x01
  mmio : Mmio := {}
  shmControl : ShmControl := {}
  ivOffMax : Nat := 0x7FFF
  resolveCap : Nat := 2
  maxInsnsRev15 : Option Nat := none
deriving DecidableEq, Repr

/-- The defaults of 00_scope.md rules R8 to R10, which the spec uses in every example. -/
def Params.default : Params := {}

/-- `LAYOUT(a)` (00_scope.md rule R9). -/
def Params.layout (p : Params) : Arch → Layout
  | .rev5 => p.layout5
  | .rev15 => p.layout15

/-- `MAX_INSNS(a)`: 4096 on Rev5, the open parameter on Rev15 (00_scope.md rule R8, 92_eei_decisions.md D40). -/
def Params.maxInsns (p : Params) : Arch → Option Nat
  | .rev5 => some Config.maxInsnsRev5
  | .rev15 => p.maxInsnsRev15

end Sys2Proof
end

