-- ==== Sys2Proof/Machine/Flags.lean ====
section
/-! DEFINITION. Every predicate and class flag the block computes. The block reads and writes no microcode condition
flag (10_state.md rule R49): its flags are the immediate and bit-mask predicates of 30_encoding.md rules R95 to R99 and
the jump-class and ret-class flags of 45_resolution.md rule R266. -/

namespace Sys2Proof.Flags

/-- `sext_w(v)` of an unsigned field, widened to a 32-bit immediate (00_scope.md rule R12). -/
def sext (w v : Nat) : Imm := (BitVec.ofNat w v).signExtend 32

/-- `is_possible_immediate(v)` (30_encoding.md rule R96): the low 16 bits, sign-extended, give `v` back. -/
def isPossibleImmediate (v : Imm) : Bool := (v.setWidth 16).signExtend 32 == v

/-- `is_valid_immediate(a, v)` (30_encoding.md rule R97). -/
def isValidImmediate (a : Arch) (v : Imm) : Bool :=
  isPossibleImmediate v && (v.setWidth (Config.immW a)).signExtend 32 == v

/-- `is_power_of_two(x)` at 32 bits (30_encoding.md rule R98); false at 0. -/
def isPowerOfTwo (x : BitVec 32) : Bool := x != 0 && x &&& (x - 1) == 0

/-- `is_contiguous_bitmask(m)` at 32 bits (30_encoding.md rule R99). -/
def isContiguousBitmask (m : BitVec 32) : Bool :=
  m == 0 || isPowerOfTwo ((m ||| ((m - 1) &&& ~~~m)) + 1)

/-- The index of the lowest set bit of a 16-bit value, 16 when none is set (42_jumps.md rule R191). -/
def lowestSetBit (k : BitVec 16) : Nat :=
  ((List.range 16).find? fun i => k.getLsbD i).getD 16

/-- The number of set bits of a 16-bit value (42_jumps.md rule R191). -/
def popcount (k : BitVec 16) : Nat :=
  (List.range 16).countP fun i => k.getLsbD i

/-- An operand of the kind `Immediate` (42_jumps.md rule R191, `imm(X)`). -/
def isImm : Operand → Bool
  | .imm _ => true
  | _ => false

/-- An `Immediate` that is a native immediate (42_jumps.md rule R191, 44_pseudo.md rule R250). -/
def isValidImmOperand (a : Arch) : Operand → Bool
  | .imm v => isValidImmediate a v
  | _ => false

/-- An operand of the kind `Memory` (30_encoding.md rule R82). -/
def isMemory : Operand → Bool
  | .direct _ => true
  | .indirect _ _ => true
  | _ => false

/-- An operand of the kind `Register(SPR, _)` (30_encoding.md rule R82). -/
def isSpr : Operand → Bool
  | .reg .spr _ => true
  | _ => false

/-- Ret-class: `ret` and `rets` (45_resolution.md rule R266). -/
def isRetClass (mnem : String) : Bool := mnem == "ret" || mnem == "rets"

/-- The target operand of a jump-class instruction, `none` for every other instruction (45_resolution.md rule R266). -/
def jumpTarget : Instr → Option Operand
  | .jzx _ _ _ _ t | .jnzx _ _ _ _ t => some t
  | .jext _ _ _ t | .jnext _ _ _ t => some t
  | .jand _ _ t | .jnand _ _ t | .js _ _ t | .jns _ _ t => some t
  | .je _ _ t | .jne _ _ t | .jls _ _ t | .jges _ _ t | .jgs _ _ t | .jles _ _ t => some t
  | .jdn _ _ t | .jdpz _ _ t | .jdp _ _ t | .jdnz _ _ t => some t
  | .jl _ _ t | .jge _ _ t | .jg _ _ t | .jle _ _ t => some t
  | .call _ t | .calls t | .jmp t => some t
  | .mul .. | .add .. | .addDot .. | .addc .. | .addcDot .. | .sub .. | .subDot .. | .subc .. | .subcDot .. => none
  | .sra .. | .or .. | .and .. | .xor .. | .sr .. | .sl .. | .rl .. | .rr .. | .nand .. => none
  | .tkiph .. | .tkiphs .. | .tkipl .. | .tkipls .. | .srx .. | .orx .. => none
  | .ret .. | .rets | .nap | .raw .. | .mov .. => none

/-- The 45 opcodes of the exact table, in the order of 30_encoding.md rule R100. -/
def exactOpcodes (o : Opcodes) : List Opcode :=
  [o.mul, o.add, o.addDot, o.addc, o.addcDot, o.sub, o.subDot, o.subc, o.subcDot, o.sra, o.or, o.and, o.xor, o.sr, o.sl,
    o.rl, o.rr, o.nand, o.tkiph, o.tkiphs, o.tkipl, o.tkipls] ++
  [o.jand, o.jnand, o.js, o.jns, o.je, o.jne, o.jls, o.jges, o.jgs, o.jles, o.jdn, o.jdpz, o.jdp, o.jdnz, o.jl, o.jge,
    o.jg, o.jle, o.call, o.calls, o.ret, o.rets, o.nap]

/-- The six extended families (30_encoding.md rules R100, R101). -/
def extendedFamilies (o : Opcodes) : List Family := [o.srx, o.orx, o.jzx, o.jnzx, o.jnext, o.jext]

/-- An opcode of an extended family: `p[11:8]` is one of the six values (30_encoding.md rule R103, which writes the default
values 2 to 7; DEDUCED for others, notes/assumptions/10.md). -/
def isExtended (o : Opcodes) (p : Opcode) : Bool := (extendedFamilies o).contains (p.extractLsb' 8 4)

/-- An opcode the decoder gives a named instruction (30_encoding.md rule R103). -/
def isNamedOpcode (o : Opcodes) (p : Opcode) : Bool := isExtended o p || (exactOpcodes o).contains p

end Sys2Proof.Flags
end

