-- ==== Sys2Proof/WellFormed.lean ====
section
/-! DEFINITION. Two checks of an instruction statement. `Instr.wellFormed`: the encoder accepts it, that is every operand
kind, range, auxiliary value and co-occurrence check of 30_encoding.md rules R82 to R94 and R108 and of the instruction
rules holds. `Instr.canonical`: it is a statement in the decoder's own spelling, each operand as 47_decoder.md rules R317,
R318 and R320 yield it and each jump target still the address of rule R320. Both read the parameters of the configuration
record and the revision. -/

namespace Sys2Proof.WellFormed

open Sys2Proof.Flags

/-- An operand slots 0 and 1 accept: its kind is one of STD3 A (30_encoding.md rule R108) and its value in range (rules
R88 to R94). A memory offset is never refused, only truncated (rule R91). -/
def okIn (p : Params) (a : Arch) : Operand → Bool
  | .imm v => isValidImmediate a v
  | .reg .gpr n => n < 2 ^ Config.gprW a
  | .reg .spr n => n < 2 ^ Config.sprW a
  | .reg .offr _ => false
  | .direct _ => true
  | .indirect _ r => r ≤ (p.layout a).offrMax
  | .labelRef _ _ => true
  | .address _ => false
  | .raw v => v < 2 ^ Config.fw a
  | .linkReg _ => false
  | .number _ => false

/-- An operand slot 2 of a STD3 form accepts: those of `okIn`, and an `Address` that fits (30_encoding.md rules R93,
R108). -/
def okOut (p : Params) (a : Arch) : Operand → Bool
  | .address t => t < 2 ^ Config.fw a
  | op => okIn p a op

/-- A jump target (41_extended.md rule R171). -/
def okTarget (a : Arch) : Operand → Bool
  | .labelRef _ _ => true
  | .address t => t < 2 ^ Config.fw a
  | .raw v => v < 2 ^ Config.fw a
  | _ => false

/-- An auxiliary operand of at most `max` (41_extended.md rule R170). -/
def okAux (max : Nat) : Operand → Bool
  | .number v => 0 ≤ v && v ≤ max
  | .imm v => 0 ≤ v.toInt && v.toInt ≤ max
  | _ => false

/-- A link-register position (43_call_ret_nap.md rule R230). -/
def okLr (p : Params) (a : Arch) : Operand → Bool
  | .linkReg n => n < p.lrFields.length
  | .raw v => v < 2 ^ Config.fw a
  | _ => false

/-- The operand co-occurrence rule for slots 0 and 1 (30_encoding.md rule R82). -/
def pairOk (a b : Operand) : Bool := !(isMemory a && isMemory b) && !(isSpr a && isSpr b)

/-- Slots 0 and 1 together. -/
def okPair (p : Params) (r : Arch) (a b : Operand) : Bool := okIn p r a && okIn p r b && pairOk a b

/-- A three-operand statement (30_encoding.md rule R108, STD3). -/
def okStd3 (p : Params) (r : Arch) (a b d : Operand) : Bool := okPair p r a b && okOut p r d

/-- A conditional-jump statement (30_encoding.md rule R108, CJMP). -/
def okCjmp (p : Params) (r : Arch) (a b t : Operand) : Bool := okPair p r a b && okTarget r t

/-- A wide immediate that the `jand`/`jnand` emulation takes (42_jumps.md rule R191). -/
def okMaskImm (v : Imm) : Bool :=
  isPossibleImmediate v && isContiguousBitmask ((v.setWidth 16).setWidth 32)

/-- `jand` and `jnand`: the native form, or the emulation of one wide immediate (42_jumps.md rule R191). -/
def okJand (p : Params) (r : Arch) (a b t : Operand) : Bool :=
  if isValidImmOperand r a || isValidImmOperand r b || (!isImm a && !isImm b) then okCjmp p r a b t
  else match a, b with
    | .imm _, .imm _ => false
    | .imm v, x => okMaskImm v && okIn p r x && okTarget r t
    | x, .imm v => okMaskImm v && okIn p r x && okTarget r t
    | _, _ => false

/-- `mov`: the `or` form, or the emulation under `MOV_EMUL` (44_pseudo.md rule R250). -/
def okMov (p : Params) (r : Arch) (src dst : Operand) : Bool :=
  match src with
  | .imm v =>
    if isValidImmediate r v then okOut p r dst
    else isPossibleImmediate v &&
      match p.movEmul with
      | .singleOrx => okOut p r dst
      | .orLoThenOrxHi => okIn p r dst
  | _ => okIn p r src && okOut p r dst

/-- The bits of a memory-indirect field whose reserved bit is set, which decode to `RawEncoded` (47_decoder.md rule
R318, 92_eei_decisions.md D5). -/
def isReservedIndirect (p : Params) (a : Arch) (f : Nat) : Bool :=
  let l := p.layout a
  f < 2 ^ Config.fw a && f &&& l.immCls != l.immCls && f &&& l.gprCls != l.gprTag && f &&& l.cls3 != l.sprTag &&
    f &&& l.cls3 == l.indTag && f &&& l.indRsvd != 0

/-- An operand as `DEC_OP` yields it (47_decoder.md rule R318). -/
def canonOp (p : Params) (a : Arch) : Operand → Bool
  | .imm v => isValidImmediate a v
  | .reg .gpr n => n < 2 ^ Config.gprW a
  | .reg .spr n => n < 2 ^ Config.sprW a
  | .direct o => o < 2 ^ Config.dirW a
  | .indirect o r => o < 2 ^ Config.indOffW && r ≤ (p.layout a).offrMax
  | .raw v => isReservedIndirect p a v
  | _ => false

/-- A decoded jump target before labels are named: an address that fits its slot (47_decoder.md rule R320). -/
def canonTarget (a : Arch) : Operand → Bool
  | .address t => t < 2 ^ Config.fw a
  | _ => false

/-- A link-register operand as `DEC_LR` yields it (43_call_ret_nap.md rule R230). -/
def canonLr (p : Params) (a : Arch) : Operand → Bool
  | .linkReg n => n < p.lrFields.length
  | .raw v => v < 2 ^ Config.fw a && !p.lrFields.contains v
  | _ => false

/-- A decoded auxiliary number (41_extended.md rule R174). -/
def canonAux (max : Nat) : Operand → Bool
  | .number v => 0 ≤ v && v ≤ max
  | _ => false

/-- A decoded field of the raw fallback (47_decoder.md rule R332). -/
def canonRaw (p : Params) (a : Arch) (typed : Bool) (op : Operand) : Bool :=
  if typed then canonOp p a op
  else match op with
    | .raw v => v < 2 ^ Config.fw a
    | _ => false

end Sys2Proof.WellFormed

namespace Sys2Proof

open WellFormed in
/-- The encoder accepts the statement (30_encoding.md rules R82 to R94, R108 and the instruction rules). -/
def Instr.wellFormed (p : Params) (r : Arch) : Instr → Bool
  | .mul a b d => okStd3 p r a b d
  | .add a b d => okStd3 p r a b d
  | .addDot a b d => okStd3 p r a b d
  | .addc a b d => okStd3 p r a b d
  | .addcDot a b d => okStd3 p r a b d
  | .sub a b d => okStd3 p r a b d
  | .subDot a b d => okStd3 p r a b d
  | .subc a b d => okStd3 p r a b d
  | .subcDot a b d => okStd3 p r a b d
  | .sra a b d => okStd3 p r a b d
  | .or a b d => okStd3 p r a b d
  | .and a b d => okStd3 p r a b d
  | .xor a b d => okStd3 p r a b d
  | .sr a b d => okStd3 p r a b d
  | .sl a b d => okStd3 p r a b d
  | .rl a b d => okStd3 p r a b d
  | .rr a b d => okStd3 p r a b d
  | .nand a b d => okStd3 p r a b d
  | .tkiph a d => okIn p r a && okOut p r d
  | .tkiphs a d => okIn p r a && okOut p r d
  | .tkipl a d => okIn p r a && okOut p r d
  | .tkipls a d => okIn p r a && okOut p r d
  | .srx m s a b d => okAux 15 m && okAux 15 s && okStd3 p r a b d
  | .orx m s a b d => okAux 15 m && okAux 15 s && okStd3 p r a b d
  | .jzx m s a b t => okAux 15 m && okAux 15 s && okCjmp p r a b t
  | .jnzx m s a b t => okAux 15 m && okAux 15 s && okCjmp p r a b t
  | .jext c a b t => okAux 255 c && okCjmp p r a b t
  | .jnext c a b t => okAux 255 c && okCjmp p r a b t
  | .jand a b t => okJand p r a b t
  | .jnand a b t => okJand p r a b t
  | .js a b t => okCjmp p r a b t
  | .jns a b t => okCjmp p r a b t
  | .je a b t => okCjmp p r a b t
  | .jne a b t => okCjmp p r a b t
  | .jls a b t => okCjmp p r a b t
  | .jges a b t => okCjmp p r a b t
  | .jgs a b t => okCjmp p r a b t
  | .jles a b t => okCjmp p r a b t
  | .jdn a b t => okCjmp p r a b t
  | .jdpz a b t => okCjmp p r a b t
  | .jdp a b t => okCjmp p r a b t
  | .jdnz a b t => okCjmp p r a b t
  | .jl a b t => okCjmp p r a b t
  | .jge a b t => okCjmp p r a b t
  | .jg a b t => okCjmp p r a b t
  | .jle a b t => okCjmp p r a b t
  | .call lr t => okLr p r lr && okTarget r t
  | .calls t => okTarget r t
  | .ret x y z => okLr p r x && okLr p r y && okLr p r z
  | .rets => true
  | .nap => true
  | .raw h a b d => h ≤ 0xFFF && okStd3 p r a b d
  | .mov src dst => okMov p r src dst
  | .jmp t => okTarget r t

open WellFormed in
/-- The statement is in the decoder's own spelling (47_decoder.md rules R316 to R320, R332); `typed` is
`DEC_TYPED_RAW`. The decoder yields no pseudo-instruction (30_encoding.md rule R107). -/
def Instr.canonical (p : Params) (typed : Bool) (r : Arch) : Instr → Bool
  | .mul a b d => canonOp p r a && canonOp p r b && canonOp p r d
  | .add a b d => canonOp p r a && canonOp p r b && canonOp p r d
  | .addDot a b d => canonOp p r a && canonOp p r b && canonOp p r d
  | .addc a b d => canonOp p r a && canonOp p r b && canonOp p r d
  | .addcDot a b d => canonOp p r a && canonOp p r b && canonOp p r d
  | .sub a b d => canonOp p r a && canonOp p r b && canonOp p r d
  | .subDot a b d => canonOp p r a && canonOp p r b && canonOp p r d
  | .subc a b d => canonOp p r a && canonOp p r b && canonOp p r d
  | .subcDot a b d => canonOp p r a && canonOp p r b && canonOp p r d
  | .sra a b d => canonOp p r a && canonOp p r b && canonOp p r d
  | .or a b d => canonOp p r a && canonOp p r b && canonOp p r d
  | .and a b d => canonOp p r a && canonOp p r b && canonOp p r d
  | .xor a b d => canonOp p r a && canonOp p r b && canonOp p r d
  | .sr a b d => canonOp p r a && canonOp p r b && canonOp p r d
  | .sl a b d => canonOp p r a && canonOp p r b && canonOp p r d
  | .rl a b d => canonOp p r a && canonOp p r b && canonOp p r d
  | .rr a b d => canonOp p r a && canonOp p r b && canonOp p r d
  | .nand a b d => canonOp p r a && canonOp p r b && canonOp p r d
  | .tkiph a d => canonOp p r a && canonOp p r d
  | .tkiphs a d => canonOp p r a && canonOp p r d
  | .tkipl a d => canonOp p r a && canonOp p r d
  | .tkipls a d => canonOp p r a && canonOp p r d
  | .srx m s a b d => canonAux 15 m && canonAux 15 s && canonOp p r a && canonOp p r b && canonOp p r d
  | .orx m s a b d => canonAux 15 m && canonAux 15 s && canonOp p r a && canonOp p r b && canonOp p r d
  | .jzx m s a b t => canonAux 15 m && canonAux 15 s && canonOp p r a && canonOp p r b && canonTarget r t
  | .jnzx m s a b t => canonAux 15 m && canonAux 15 s && canonOp p r a && canonOp p r b && canonTarget r t
  | .jext c a b t => canonAux 255 c && canonOp p r a && canonOp p r b && canonTarget r t
  | .jnext c a b t => canonAux 255 c && canonOp p r a && canonOp p r b && canonTarget r t
  | .jand a b t => canonOp p r a && canonOp p r b && canonTarget r t
  | .jnand a b t => canonOp p r a && canonOp p r b && canonTarget r t
  | .js a b t => canonOp p r a && canonOp p r b && canonTarget r t
  | .jns a b t => canonOp p r a && canonOp p r b && canonTarget r t
  | .je a b t => canonOp p r a && canonOp p r b && canonTarget r t
  | .jne a b t => canonOp p r a && canonOp p r b && canonTarget r t
  | .jls a b t => canonOp p r a && canonOp p r b && canonTarget r t
  | .jges a b t => canonOp p r a && canonOp p r b && canonTarget r t
  | .jgs a b t => canonOp p r a && canonOp p r b && canonTarget r t
  | .jles a b t => canonOp p r a && canonOp p r b && canonTarget r t
  | .jdn a b t => canonOp p r a && canonOp p r b && canonTarget r t
  | .jdpz a b t => canonOp p r a && canonOp p r b && canonTarget r t
  | .jdp a b t => canonOp p r a && canonOp p r b && canonTarget r t
  | .jdnz a b t => canonOp p r a && canonOp p r b && canonTarget r t
  | .jl a b t => canonOp p r a && canonOp p r b && canonTarget r t
  | .jge a b t => canonOp p r a && canonOp p r b && canonTarget r t
  | .jg a b t => canonOp p r a && canonOp p r b && canonTarget r t
  | .jle a b t => canonOp p r a && canonOp p r b && canonTarget r t
  | .call lr t => canonLr p r lr && canonTarget r t
  | .calls t => canonTarget r t
  | .ret x y z => canonLr p r x && canonLr p r y && canonLr p r z
  | .rets => true
  | .nap => true
  | .raw h a b d => h ≤ 0xFFF && !Flags.isNamedOpcode p.opcodes (BitVec.ofNat 12 h) &&
      canonRaw p r typed a && canonRaw p r typed b && canonRaw p r typed d
  | .mov _ _ => false
  | .jmp _ => false

end Sys2Proof
end

