-- ==== Sys2Proof/Decode.lean ====
section
/-! DEFINITION. The byte orders (20_memory.md rules R64, R65), the word's layout (30_encoding.md rule R83), the decoder of
one word (47_decoder.md rules R311 to R320, R332), total on any word and rejecting by name, and after it an encoder of a
well-formed instruction written from the same encoding tables (30_encoding.md rules R84 to R94, R100, R101). -/

namespace Sys2Proof.Decode

open Sys2Proof

/-! ### Byte order -/

/-- The byte of `v` that starts at bit `n`. -/
def byteAt (v n : Nat) : Byte := BitVec.ofNat 8 (v / 2 ^ n)

/-- `BE16(v)` (00_scope.md rule R13). -/
def be16 (v : Nat) : List Byte := [byteAt v 8, byteAt v 0]

/-- `BE32(v)` (00_scope.md rule R13). -/
def be32 (v : Nat) : List Byte := [byteAt v 24, byteAt v 16, byteAt v 8, byteAt v 0]

/-- `LE16(v)` (00_scope.md rule R13). -/
def le16 (v : Nat) : List Byte := [byteAt v 0, byteAt v 8]

/-- `LE32(v)` (00_scope.md rule R13). -/
def le32 (v : Nat) : List Byte := [byteAt v 0, byteAt v 8, byteAt v 16, byteAt v 24]

/-- Bytes read most-significant first. -/
def readBe (bs : List Byte) : Nat := bs.foldl (fun acc b => acc * 256 + b.toNat) 0

/-- Bytes read least-significant first. -/
def readLe (bs : List Byte) : Nat := readBe bs.reverse

/-- The low half `W[31:0]` (20_memory.md rule R64). -/
def lo (w : Word) : Nat := w.toNat % 2 ^ 32

/-- The high half `W[63:32]` (20_memory.md rule R64). -/
def hi (w : Word) : Nat := w.toNat / 2 ^ 32

/-- The eight bytes of a word in an on-disk format (20_memory.md rule R64). -/
def wordBytes : OutFmt → Word → List Byte
  | .rawLe32, w => le32 (lo w) ++ le32 (hi w)
  | .rawBe32, w => be32 (lo w) ++ be32 (hi w)
  | .b43, w => be32 (lo w) ++ be32 (hi w)

/-- Word reassembly from eight bytes (47_decoder.md rule R311). -/
def wordOfBytes (fmt : OutFmt) (bs : List Byte) : Word :=
  match fmt with
  | .rawLe32 => BitVec.ofNat 64 (readLe (bs.drop 4) * 2 ^ 32 + readLe (bs.take 4))
  | .rawBe32 => BitVec.ofNat 64 (readBe (bs.drop 4) * 2 ^ 32 + readBe (bs.take 4))
  | .b43 => BitVec.ofNat 64 (readBe (bs.drop 4) * 2 ^ 32 + readBe (bs.take 4))

/-! ### The word's layout -/

/-- The opcode and the three operand fields of a word. -/
structure WordFields where
  opc : Opcode
  f0 : Nat
  f1 : Nat
  f2 : Nat
deriving DecidableEq, Repr

/-- `pack(a, opc, f0, f1, f2)` (46_emission.md rule R290), each field masked to its width. -/
def pack (a : Arch) (x : WordFields) : Word :=
  let field (f sh : Nat) : Word := BitVec.ofNat 64 (f % 2 ^ Config.fw a) <<< sh
  (x.opc.setWidth 64) <<< Config.shOpc a ||| field x.f0 (Config.shOp0 a) ||| field x.f1 (Config.shOp1 a) ||| field x.f2 0

/-- The first field value the packer truncates, in the order of `pack`'s arguments (46_emission.md rules R290, R291). The
opcode is 12 bits by its type. -/
def truncated (a : Arch) (x : WordFields) : Option Nat :=
  [x.f0, x.f1, x.f2].find? fun f => 2 ^ Config.fw a ≤ f

/-- Unpacking (47_decoder.md rule R313). -/
def unpack (a : Arch) (w : Word) : WordFields where
  opc := (w >>> Config.shOpc a).setWidth 12
  f0 := (w >>> Config.shOp0 a).toNat % 2 ^ Config.fw a
  f1 := (w >>> Config.shOp1 a).toNat % 2 ^ Config.fw a
  f2 := w.toNat % 2 ^ Config.fw a

/-- The width check of 47_decoder.md rule R312: no bit above `WORD_USED` is set. -/
def fitsArch (a : Arch) (w : Word) : Bool := w >>> Config.wordUsed a == 0

/-! ### The decoder -/

/-- Why the decoder refuses eight bytes. -/
inductive Reject where
  /-- Not exactly eight bytes (20_memory.md rule R67; the unit raises `E19`). -/
  | notOneWord
  /-- A bit above `WORD_USED` is set (47_decoder.md rule R312; the unit raises `E17`). -/
  | wideWord
deriving DecidableEq, Repr

/-- `DEC_OP(a, f)`, in the fixed priority order of its class tests (47_decoder.md rule R318). -/
def decOp (p : Params) (a : Arch) (f : Nat) : Operand :=
  let l := p.layout a
  if f &&& l.immCls = l.immCls then .imm (Flags.sext (Config.immW a) f)
  else if f &&& l.gprCls = l.gprTag then .reg .gpr (f % 2 ^ Config.gprW a)
  else if f &&& l.cls3 = l.sprTag then .reg .spr (f % 2 ^ Config.sprW a)
  else if f &&& l.cls3 = l.indTag then
    if f &&& l.indRsvd ≠ 0 then .raw f
    else .indirect (f % 2 ^ Config.indOffW) (f / 2 ^ l.offrShift % 2 ^ l.offrFieldW)
  else .direct (f % 2 ^ Config.dirW a)

/-- `DEC_LR(a, f)` without its warning (43_call_ret_nap.md rule R230). DESIGN CHOICE, unsafe for such parameters alone: where
`LR_FIELD` gives several link registers the field `f`, the lowest of them (notes/assumptions/22.md). -/
def decLr (p : Params) (f : Nat) : Operand :=
  if f ∈ p.lrFields then .linkReg (p.lrFields.idxOf f) else .raw f

/-- The extended families, each value with its mnemonic's recipe (41_extended.md rule R174, 30_encoding.md rule R101). -/
def familyTable (o : Opcodes) (opc : Opcode) (a b d : Operand) (t : Nat) : List (Family × Instr) :=
  let m := Operand.number (opc.toNat / 16 % 16)
  let s := Operand.number (opc.toNat % 16)
  let c := Operand.number (opc.toNat % 256)
  [(o.srx, .srx m s a b d), (o.orx, .orx m s a b d), (o.jzx, .jzx m s a b (.address t)),
    (o.jnzx, .jnzx m s a b (.address t)), (o.jnext, .jnext c a b (.address t)), (o.jext, .jext c a b (.address t))]

/-- The instruction of an opcode in an extended family: `none` where `p[11:8]` is the value of no family. DESIGN CHOICE, unsafe
for such parameters alone: where `OPCODE` gives several families that value, the first in the order of `familyTable`
(notes/assumptions/22.md). -/
def decExtended (o : Opcodes) (opc : Opcode) (a b d : Operand) (t : Nat) : Option Instr :=
  (familyTable o opc a b d t).lookup (opc.extractLsb' 8 4)

/-- The exact table: each opcode with its mnemonic's recipe (47_decoder.md rules R315, R317). A jump target is still the
address of its slot: labels are named after classification (rule R322). -/
def exactTable (p : Params) (a b d : Operand) (x : WordFields) : List (Opcode × Instr) :=
  let o := p.opcodes
  let t := Operand.address x.f2
  [(o.mul, .mul a b d), (o.add, .add a b d), (o.addDot, .addDot a b d), (o.addc, .addc a b d),
    (o.addcDot, .addcDot a b d), (o.sub, .sub a b d), (o.subDot, .subDot a b d), (o.subc, .subc a b d),
    (o.subcDot, .subcDot a b d), (o.sra, .sra a b d), (o.or, .or a b d), (o.and, .and a b d), (o.xor, .xor a b d),
    (o.sr, .sr a b d), (o.sl, .sl a b d), (o.rl, .rl a b d), (o.rr, .rr a b d), (o.nand, .nand a b d)] ++
  [(o.tkiph, .tkiph a d), (o.tkiphs, .tkiphs a d), (o.tkipl, .tkipl a d), (o.tkipls, .tkipls a d)] ++
  [(o.jand, .jand a b t), (o.jnand, .jnand a b t), (o.js, .js a b t), (o.jns, .jns a b t), (o.je, .je a b t),
    (o.jne, .jne a b t), (o.jls, .jls a b t), (o.jges, .jges a b t), (o.jgs, .jgs a b t), (o.jles, .jles a b t),
    (o.jdn, .jdn a b t), (o.jdpz, .jdpz a b t), (o.jdp, .jdp a b t), (o.jdnz, .jdnz a b t), (o.jl, .jl a b t),
    (o.jge, .jge a b t), (o.jg, .jg a b t), (o.jle, .jle a b t)] ++
  [(o.call, .call (decLr p x.f0) t), (o.calls, .calls t), (o.ret, .ret (decLr p x.f0) (decLr p x.f1) (decLr p x.f2)),
    (o.rets, .rets), (o.nap, .nap)]

/-- The instruction of an opcode in the exact table. DESIGN CHOICE, unsafe for such parameters alone: where `OPCODE` gives
several mnemonics that opcode, the first in the order of `exactTable` (notes/assumptions/22.md). -/
def decExact (p : Params) (opc : Opcode) (a b d : Operand) (x : WordFields) : Option Instr :=
  (exactTable p a b d x).lookup opc

/-- The fallback `@p` (47_decoder.md rule R332). -/
def decFallback (typed : Bool) (opc : Opcode) (a b d : Operand) (x : WordFields) : Instr :=
  if typed then .raw opc.toNat a b d else .raw opc.toNat (.raw x.f0) (.raw x.f1) (.raw x.f2)

/-- Classification and operand decode of an unpacked word (47_decoder.md rule R315): extended family, exact table,
fallback. -/
def decFields (p : Params) (typed : Bool) (r : Arch) (x : WordFields) : Instr :=
  let a := decOp p r x.f0
  let b := decOp p r x.f1
  let d := decOp p r x.f2
  match decExtended p.opcodes x.opc a b d x.f2 with
  | some i => i
  | none =>
    match decExact p x.opc a b d x with
    | some i => i
    | none => decFallback typed x.opc a b d x

/-- The decoder of one word: refused by name, or an instruction. -/
def decode (p : Params) (typed : Bool) (a : Arch) (w : Word) : Except Reject Instr :=
  if fitsArch a w then .ok (decFields p typed a (unpack a w)) else .error .wideWord

/-- The decoder on the bytes of one word as a stream stores them. -/
def decodeBytes (p : Params) (typed : Bool) (a : Arch) (fmt : OutFmt) (bs : List Byte) : Except Reject Instr :=
  if bs.length = 8 then decode p typed a (wordOfBytes fmt bs) else .error .notOneWord

/-! ### The encoder -/

/-- The field of an operand whose reference, if it is one, is an `Address` (30_encoding.md rules R88 to R94, 43_call_ret_nap.md
rule R230). Operands that have no field of their own (a label reference, a bare OFFR register, a number) give 0. -/
def operandField (p : Params) (a : Arch) : Operand → Nat
  | .imm v => Config.immTag a ||| (v.setWidth (Config.immW a)).toNat
  | .reg .gpr n => (p.layout a).gprTag ||| n
  | .reg .spr n => (p.layout a).sprTag ||| n
  | .reg .offr _ => 0
  | .direct o => o % 2 ^ Config.dirW a
  | .indirect o r => (p.layout a).indTag ||| r <<< (p.layout a).offrShift ||| o % 2 ^ Config.indOffW
  | .labelRef _ _ => 0
  | .address t => t
  | .raw v => v
  | .linkReg n => p.lrFields.getD n 0
  | .number _ => 0

/-- The value of an auxiliary operand (41_extended.md rule R170). -/
def auxValue : Operand → Nat
  | .number v => v.toNat
  | .imm v => v.toNat
  | _ => 0

/-- An extended opcode `FAM << 8 | M << 4 | S` (30_encoding.md rule R101). -/
def extOpcode (fam : Family) (m s : Nat) : Opcode := BitVec.ofNat 12 (fam.toNat <<< 8 ||| m <<< 4 ||| s)

/-- An extended opcode `FAM << 8 | C` (30_encoding.md rule R101). -/
def condOpcode (fam : Family) (c : Nat) : Opcode := BitVec.ofNat 12 (fam.toNat <<< 8 ||| c)

/-- Register 0 as an operand. -/
def r0 : Operand := .reg .gpr 0

/-- The wide immediate of a `jand`/`jnand` that is emulated, with the other operand (42_jumps.md rule R191); `none` for
the native form. -/
def wideMask (r : Arch) (a b : Operand) : Option (Imm × Operand) :=
  if Flags.isValidImmOperand r a || Flags.isValidImmOperand r b then none
  else match a, b with
    | .imm v, x => some (v, x)
    | x, .imm v => some (v, x)
    | _, _ => none

/-- The mask number of a wide immediate: the span of its bits minus one (30_encoding.md rule R102). -/
def maskNumber (v : Imm) : Operand := .number (Flags.popcount (v.setWidth 16) - 1 : Nat)

/-- The shift of a wide immediate: the index of its lowest set bit (42_jumps.md rule R191). -/
def maskShift (v : Imm) : Operand := .number (Flags.lowestSetBit (v.setWidth 16) : Nat)

/-- The high and the low byte of the `mov` emulation as immediates (44_pseudo.md rule R250). -/
def movHi (v : Imm) : Operand := .imm ((v >>> 8) &&& 0xFF)

/-- See `movHi`. -/
def movLo (v : Imm) : Operand := .imm (v &&& 0xFF)

/-- Pseudo-instructions and emulated forms replaced by what they expand to (30_encoding.md rule R107, 44_pseudo.md rules
R250 to R252, 42_jumps.md rule R191). -/
def expand (p : Params) (r : Arch) : Instr → List Instr
  | .jmp t => [.jext (.number Config.condAlways) r0 r0 t]
  | .mov (.imm v) dst =>
    if Flags.isValidImmediate r v then [.or (.imm v) (.imm 0) dst]
    else match p.movEmul with
      | .singleOrx => [.orx (.number Config.movMask) (.number Config.movShift) (movHi v) (movLo v) dst]
      | .orLoThenOrxHi =>
        [.or (movLo v) (.imm 0) dst, .orx (.number Config.movMask) (.number Config.movShift) (movHi v) dst dst]
  | .mov src dst => [.or src (.imm 0) dst]
  | .jand a b t =>
    match wideMask r a b with
    | none => [.jand a b t]
    | some (v, x) => [.jnzx (maskNumber v) (maskShift v) x (.imm 0) t]
  | .jnand a b t =>
    match wideMask r a b with
    | none => [.jnand a b t]
    | some (v, x) => [.jzx (maskNumber v) (maskShift v) x (.imm 0) t]
  | i => [i]

/-- The opcode and the fields of one instruction that is no pseudo-instruction (the tables of 30_encoding.md rules R100,
R101; the constants of 00_scope.md rule R10). -/
def encFields (p : Params) (r : Arch) (i : Instr) : WordFields :=
  let o := p.opcodes
  let k := p.constants
  let f := operandField p r
  match i with
  | .mul a b d => ⟨o.mul, f a, f b, f d⟩
  | .add a b d => ⟨o.add, f a, f b, f d⟩
  | .addDot a b d => ⟨o.addDot, f a, f b, f d⟩
  | .addc a b d => ⟨o.addc, f a, f b, f d⟩
  | .addcDot a b d => ⟨o.addcDot, f a, f b, f d⟩
  | .sub a b d => ⟨o.sub, f a, f b, f d⟩
  | .subDot a b d => ⟨o.subDot, f a, f b, f d⟩
  | .subc a b d => ⟨o.subc, f a, f b, f d⟩
  | .subcDot a b d => ⟨o.subcDot, f a, f b, f d⟩
  | .sra a b d => ⟨o.sra, f a, f b, f d⟩
  | .or a b d => ⟨o.or, f a, f b, f d⟩
  | .and a b d => ⟨o.and, f a, f b, f d⟩
  | .xor a b d => ⟨o.xor, f a, f b, f d⟩
  | .sr a b d => ⟨o.sr, f a, f b, f d⟩
  | .sl a b d => ⟨o.sl, f a, f b, f d⟩
  | .rl a b d => ⟨o.rl, f a, f b, f d⟩
  | .rr a b d => ⟨o.rr, f a, f b, f d⟩
  | .nand a b d => ⟨o.nand, f a, f b, f d⟩
  | .tkiph a d => ⟨o.tkiph, f a, k.tkip1, f d⟩
  | .tkiphs a d => ⟨o.tkiphs, f a, k.tkip1, f d⟩
  | .tkipl a d => ⟨o.tkipl, f a, k.tkip1, f d⟩
  | .tkipls a d => ⟨o.tkipls, f a, k.tkip1, f d⟩
  | .srx m s a b d => ⟨extOpcode o.srx (auxValue m) (auxValue s), f a, f b, f d⟩
  | .orx m s a b d => ⟨extOpcode o.orx (auxValue m) (auxValue s), f a, f b, f d⟩
  | .jzx m s a b d => ⟨extOpcode o.jzx (auxValue m) (auxValue s), f a, f b, f d⟩
  | .jnzx m s a b d => ⟨extOpcode o.jnzx (auxValue m) (auxValue s), f a, f b, f d⟩
  | .jext c a b t => ⟨condOpcode o.jext (auxValue c), f a, f b, f t⟩
  | .jnext c a b t => ⟨condOpcode o.jnext (auxValue c), f a, f b, f t⟩
  | .jand a b t => ⟨o.jand, f a, f b, f t⟩
  | .jnand a b t => ⟨o.jnand, f a, f b, f t⟩
  | .js a b t => ⟨o.js, f a, f b, f t⟩
  | .jns a b t => ⟨o.jns, f a, f b, f t⟩
  | .je a b t => ⟨o.je, f a, f b, f t⟩
  | .jne a b t => ⟨o.jne, f a, f b, f t⟩
  | .jls a b t => ⟨o.jls, f a, f b, f t⟩
  | .jges a b t => ⟨o.jges, f a, f b, f t⟩
  | .jgs a b t => ⟨o.jgs, f a, f b, f t⟩
  | .jles a b t => ⟨o.jles, f a, f b, f t⟩
  | .jdn a b t => ⟨o.jdn, f a, f b, f t⟩
  | .jdpz a b t => ⟨o.jdpz, f a, f b, f t⟩
  | .jdp a b t => ⟨o.jdp, f a, f b, f t⟩
  | .jdnz a b t => ⟨o.jdnz, f a, f b, f t⟩
  | .jl a b t => ⟨o.jl, f a, f b, f t⟩
  | .jge a b t => ⟨o.jge, f a, f b, f t⟩
  | .jg a b t => ⟨o.jg, f a, f b, f t⟩
  | .jle a b t => ⟨o.jle, f a, f b, f t⟩
  | .call lr t => ⟨o.call, f lr, k.call1, f t⟩
  | .calls t => ⟨o.calls, k.calls0, k.calls1, f t⟩
  | .ret x y z => ⟨o.ret, f x, f y, f z⟩
  | .rets => ⟨o.rets, k.rets0, k.rets1, k.rets2⟩
  | .nap => ⟨o.nap, k.nap0, k.nap1, k.nap2⟩
  | .raw h x y z => ⟨BitVec.ofNat 12 h, f x, f y, f z⟩
  | .mov src dst => ⟨o.or, f src, f (.imm 0), f dst⟩
  | .jmp t => ⟨condOpcode o.jext Config.condAlways, f r0, f r0, f t⟩

/-- The words of a well-formed instruction whose references are addresses. -/
def encode (p : Params) (r : Arch) (i : Instr) : List Word :=
  (expand p r i).map fun j => pack r (encFields p r j)

/-! ### The opcode table's own numbering -/

/-- The word whose bits spec/opcode_table.json numbers as `w`: bits 11..0 are the opcode; the three operand slots follow
in the order 0, 1, 2, then the bits that must be zero. -/
def tableWord (a : Arch) (w : Nat) : Word :=
  let n := Config.fw a
  let x : WordFields := ⟨BitVec.ofNat 12 w, w / 2 ^ 12, w / 2 ^ (12 + n), w / 2 ^ (12 + 2 * n)⟩
  pack a x ||| BitVec.ofNat 64 (w / 2 ^ Config.wordUsed a) <<< Config.wordUsed a

end Sys2Proof.Decode

namespace Sys2Proof

/-- The instruction the decoder reads, on Rev5 with the default parameters, from the instruction whose bits are `w` in
the numbering of spec/opcode_table.json: the word is laid out as the native stream stores it and read back. -/
def decodeTableWord (nbits w : Nat) : Option Instr :=
  let bytes := Decode.wordBytes .b43 (Decode.tableWord .rev5 (w % 2 ^ nbits))
  match Decode.decodeBytes Params.default false .rev5 .b43 bytes with
  | .ok i => some i
  | .error _ => none

end Sys2Proof
end

