-- ==== Sys2Proof/Machine/State.lean ====
section
/-! DEFINITION. The block's state (10_state.md): the configuration record, the working state of the encoder, the decoder
and the initvals serializer, the status, the output, and the stage the running unit is at. Plain data. -/

namespace Sys2Proof.Machine

/-- Fatal error codes (60_exceptions.md rule R383). -/
inductive ECode where
  | E1 | E2 | E3 | E4 | E5 | E6 | E7 | E8 | E9 | E10 | E11 | E12 | E13 | E14 | E15 | E16 | E17 | E18 | E19 | E20 | E21
  | E22
deriving DecidableEq, Repr

/-- Warning codes (60_exceptions.md rule R384). -/
inductive WCode where
  | W1 | W2 | W3 | W4 | W5 | W6 | W7 | W8
deriving DecidableEq, Repr

/-- Where a diagnostic was raised (60_exceptions.md rule R385): a source location, a word index of the decoder, the index
of an initvals operation or of a raw write, or none. -/
inductive Loc where
  | none
  | source (l : Nat)
  | word (k : Nat)
  | op (j : Nat)
  | write (k : Nat)
deriving DecidableEq, Repr

/-- What a diagnostic names, its `info` (60_exceptions.md rule R385): an offending value, register number or field; a label
name; the location a rule passes (45_resolution.md rules R260, R267); a text where the rule that raises it gives one; the
mnemonic, slot and value of a fixed sub-field (43_call_ret_nap.md rule R231); or, where the offending value is no number, the
offending operands or the mnemonic with its operand count (notes/assumptions/8.md). -/
inductive Info where
  | none
  | value (v : Int)
  | name (l : String)
  | location (l : Loc)
  | text (t : String)
  | subfield (mnem : String) (slot value : Nat)
  | operands (ops : List Operand)
  | statement (m : Mnemonic) (count : Nat)
deriving DecidableEq, Repr

/-- A fatal error as `STATUS.FATAL` holds it (10_state.md rule R42, 60_exceptions.md rule R381). -/
structure FatalDiag where
  code : ECode
  info : Info
  loc : Loc
deriving DecidableEq, Repr

/-- One entry of `STATUS.WARNINGS` (10_state.md rule R43, 60_exceptions.md rule R382). -/
structure Warning where
  code : WCode
  info : Info
  loc : Loc
deriving DecidableEq, Repr

/-- An `Insn` record (10_state.md rule R36). `addr` is unset until an address-assignment pass reaches it. -/
structure InsnRec where
  mnem : String
  opcode : Opcode
  f0 : Field
  f1 : Field
  f2 : Field
  addr : Option Nat
  isJump : Bool
  isEntryJump : Bool
  loc : Option Nat
deriving DecidableEq, Repr

/-- One element of `ENC.RECORDS` (10_state.md rule R36). -/
inductive Record where
  | insn (r : InsnRec)
  | label (name : String) (addr : Option Nat) (loc : Option Nat)
deriving DecidableEq, Repr

/-- One raw MMIO write `(offset, size, value)` (10_state.md rule R41). -/
structure Write where
  off : Nat
  size : Nat
  value : Nat
deriving DecidableEq, Repr

/-- The three units (00_scope.md rule R2). -/
inductive Engine where
  | enc
  | dec
  | ivs
deriving DecidableEq, Repr

/-- What the host sends (20_memory.md rule R75, 70_reset_and_hazards.md rule R411): a write of a configuration field, or
the start of a run with its whole input. -/
inductive Request where
  | setOutFmt (f : OutFmt)
  | setIvFmt (f : IvFmt)
  | setTypedRaw (b : Bool)
  | runEnc (stmts : List Stmt)
  | runDec (arch : Arch) (bytes : List Byte)
  | runIvs (sectionName : String) (ops : List InitvalOp)
deriving DecidableEq, Repr

/-- The stage of the running unit, with what is left of its input (70_reset_and_hazards.md rule R410). The stages of the
encoder are those of 45_resolution.md and 46_emission.md, of the decoder those of 47_decoder.md rule R314, of the
serializer those of 48_initvals.md rule R351. `idle`: no unit runs. -/
inductive Task where
  | idle
  | scan (all todo : List Stmt) (archv : Option Int)
  | place (all : List Stmt)
  | generate (todo : List Stmt)
  | startPass
  | assign (k : Nat)
  | elide
  | resolve (k : Nat)
  | emitHead
  | emitWord (k : Nat)
  | ingest (bytes : List Byte)
  | unpack (body : List Byte)
  | classify (k : Nat)
  | nameLabels
  | build (k : Nat)
  | expand (todo : List InitvalOp) (j : Nat)
  | checkOffset (k : Nat)
  | ivsHead
  | ivsRecord (k : Nat)
deriving DecidableEq, Repr

/-- The configuration record `CFG` (10_state.md rule R30). `arch = none` is `UNSET`. -/
structure Cfg where
  arch : Option Arch
  outFmt : OutFmt
  ivFmt : IvFmt
  decTypedRaw : Bool
  params : Params
deriving DecidableEq, Repr

/-- Why the model stops. -/
inductive Fault where
  /-- Raised by a meaning that is called at a state where no unit is at an instruction (no statement being generated, no
  word being classified). `step` never calls one there. Safe: the model stops where the spec gives no transition. -/
  | noInstructionHere
deriving DecidableEq, Repr

/-- Why the model has no meaning. -/
inductive Refusal where
  /-- Raised by `exec` for an instruction without a meaning. Safe. -/
  | notModelled (mnemonic : String)
deriving DecidableEq, Repr

/-- The machine's state. -/
structure State where
  /-- `CFG` (10_state.md rule R30). -/
  cfg : Cfg
  /-- `ENC.RECORDS` (10_state.md rule R36). -/
  records : List Record
  /-- `ENC.ENTRY` (10_state.md rule R38). -/
  entry : Option String
  /-- `ENC.PASSES` (10_state.md rule R39). -/
  passes : Nat
  /-- `ADDR`, the linear-address counter (10_state.md rule R37). -/
  addr : Nat
  /-- `N`, the instruction count a run computes (45_resolution.md rule R264, 47_decoder.md rule R310). -/
  count : Nat
  /-- `DEC.WORDS` (10_state.md rule R40). -/
  words : List Word
  /-- The classified statements at their addresses, before labels are named (47_decoder.md rule R314). -/
  decoded : List (Nat × Instr)
  /-- `DEC.TARGETS`, in increasing order (10_state.md rule R40, 47_decoder.md rule R321). -/
  targets : List Nat
  /-- `DEC.STMTS`, the output of the decoder (10_state.md rules R40, R44). -/
  stmts : List DecStmt
  /-- `IVS.WRITES` (10_state.md rule R41). -/
  writes : List Write
  /-- `STATUS.FATAL` (10_state.md rule R42). -/
  fatal : Option FatalDiag
  /-- `STATUS.WARNINGS` (10_state.md rule R43). -/
  warnings : List Warning
  /-- `OUT`, the byte output of the encoder and the serializer (10_state.md rule R44). -/
  out : List Byte
  /-- `OUT_VALID` (10_state.md rule R44). -/
  outValid : Bool
  /-- The stage of the running unit (70_reset_and_hazards.md rule R410). -/
  task : Task
  /-- The host's pending requests, oldest first (20_memory.md rule R75). -/
  requests : List Request
  /-- The model's own counter of free values used. -/
  freeCount : Nat
deriving DecidableEq, Repr

/-- `CFG` at reset (10_state.md rules R30, R50): the parameters hold the defaults of 00_scope.md. -/
def Cfg.reset : Cfg where
  arch := none
  outFmt := .b43
  ivFmt := .legacy
  decTypedRaw := false
  params := Params.default

/-- The state right after reset (10_state.md rule R50). `addr` and `count` have no value in rule R50: their zeros are the
model's (notes/assumptions/2.md), as is `freeCount` (notes/assumptions/1.md). -/
def State.reset : State where
  cfg := Cfg.reset
  records := []
  entry := none
  passes := 0
  addr := 0
  count := 0
  words := []
  decoded := []
  targets := []
  stmts := []
  writes := []
  fatal := none
  warnings := []
  out := []
  outValid := false
  task := .idle
  requests := []
  freeCount := 0

end Sys2Proof.Machine
end

