-- ==== Sys2Proof/Machine/Ops.lean ====
section
/-! DEFINITION. The named operations the instruction meanings and the stages share: raising a warning, taking a fatal error
(the block's only exception entry) and starting a run (the only way on from one), appending records, generation of a
statement as a log of events, and delivery of a decoded word. -/

namespace Sys2Proof.Machine

open Sys2Proof

/-! ### Status -/

/-- The unit whose stage a task is. -/
def Task.engine : Task → Option Engine
  | .idle => none
  | .scan .. | .place _ | .generate _ | .startPass | .assign _ | .elide | .resolve _ | .emitHead | .emitWord _ => some .enc
  | .ingest _ | .unpack _ | .classify _ | .nameLabels | .build _ => some .dec
  | .expand .. | .checkOffset _ | .ivsHead | .ivsRecord _ => some .ivs

/-- `warn(W<n>, info)` (60_exceptions.md rule R382). -/
def State.warn (s : State) (code : WCode) (info : Info) (loc : Loc) : State :=
  { s with warnings := s.warnings ++ [⟨code, info, loc⟩] }

/-- `fatal(E<n>, info)`, the one exception entry (60_exceptions.md rules R381, R390): it saves the code, the information
and the location, clears `OUT_VALID` and stops the unit. `OUT` of the running unit becomes unspecified (10_state.md rule
R44): a free value. -/
def State.raise (s : State) (code : ECode) (info : Info) (loc : Loc) : State :=
  { s with
    fatal := some ⟨code, info, loc⟩
    outValid := false
    task := .idle
    out := if s.task.engine = some .dec then s.out else Config.freeOut s.freeCount
    stmts := if s.task.engine = some .dec then Config.freeStmts s.freeCount else s.stmts
    freeCount := s.freeCount + 1 }

/-- The state at the start of a run (10_state.md rule R50, 70_reset_and_hazards.md rule R410), the only way on from a fatal
error (60_exceptions.md rule R390): the working state, the status and the output are emptied, `CFG.ARCH` is `UNSET`, the
rest of `CFG` is kept, `ADDR` is unspecified. -/
def State.newRun (s : State) : State :=
  { s with
    cfg := { s.cfg with arch := none }
    records := []
    entry := none
    passes := 0
    addr := Config.freeAddr s.freeCount
    count := 0
    words := []
    decoded := []
    targets := []
    stmts := []
    writes := []
    fatal := none
    warnings := []
    out := []
    outValid := false
    task := .idle
    freeCount := s.freeCount + 1 }

/-- `emit(b)` (20_memory.md rule R61). -/
def State.emit (s : State) (bs : List Byte) : State := { s with out := s.out ++ bs }

/-- The end of a run that meets no fatal error (10_state.md rule R44, 70_reset_and_hazards.md rule R410). -/
def State.complete (s : State) : State := { s with outValid := true, task := .idle }

/-- The source location of a diagnostic (60_exceptions.md rule R385). -/
def sourceLoc : Option Nat → Loc
  | some l => .source l
  | none => .none

/-! ### Generation -/

/-- A fatal error to be raised. -/
structure Err where
  code : ECode
  info : Info
deriving DecidableEq, Repr

/-- An instruction to be appended as a record. -/
structure Emitted where
  mnem : String
  opcode : Opcode
  f0 : Field
  f1 : Field
  f2 : Field
  isJump : Bool
deriving DecidableEq, Repr

/-- What the generation of a statement does to the state, one after the other. -/
inductive Event where
  | warn (code : WCode) (info : Info)
  | insn (x : Emitted)
deriving DecidableEq, Repr

/-- A generation in progress: the events so far, and its value or the fatal error that stops it. The events before a fatal
error have happened (60_exceptions.md rule R390). -/
structure Gen (α : Type) where
  events : List Event
  result : Except Err α

/-- A value and no event. -/
def Gen.pure {α : Type} (x : α) : Gen α := ⟨[], .ok x⟩

/-- A fatal error. -/
def Gen.fail {α : Type} (code : ECode) (info : Info) : Gen α := ⟨[], .error ⟨code, info⟩⟩

/-- A warning, after which the rule goes on with `x` (60_exceptions.md rule R382). -/
def Gen.warn {α : Type} (code : WCode) (info : Info) (x : α) : Gen α := ⟨[.warn code info], .ok x⟩

/-- Append a record. -/
def Gen.emit (x : Emitted) : Gen Unit := ⟨[.insn x], .ok ()⟩

/-- One generation after the other; a fatal error in the first keeps the second from having any effect. -/
def Gen.bind {α β : Type} (g : Gen α) (f : α → Gen β) : Gen β :=
  match g.result with
  | .error e => ⟨g.events, .error e⟩
  | .ok x => ⟨g.events ++ (f x).events, (f x).result⟩

/-- The last `Insn` appended from a statement: label records are skipped and the entry jump is not counted
(45_resolution.md rule R267). -/
def lastFromStatement (rs : List Record) : Option InsnRec :=
  rs.reverse.findSome? fun
    | .insn r => if r.isEntryJump then none else some r
    | .label .. => none

/-- The warning `W4` on appending a ret-class record right after a jump-class one (45_resolution.md rule R267). -/
def warnsReturnAfterJump (rs : List Record) (mnem : String) : Bool :=
  Flags.isRetClass mnem &&
    match lastFromStatement rs with
    | some r => r.isJump
    | none => false

/-- The record of an emitted instruction, its address unset (10_state.md rule R36). -/
def Emitted.record (x : Emitted) (isEntry : Bool) (loc : Option Nat) : Record :=
  .insn ⟨x.mnem, x.opcode, x.f0, x.f1, x.f2, none, x.isJump, isEntry, loc⟩

/-- Append an `Insn` record (45_resolution.md rules R262, R267). -/
def State.appendInsn (s : State) (x : Emitted) (isEntry : Bool) (loc : Option Nat) : State :=
  let s1 := if warnsReturnAfterJump s.records x.mnem then s.warn .W4 (.location (sourceLoc loc)) (sourceLoc loc) else s
  { s1 with records := s1.records ++ [x.record isEntry loc] }

/-- One event of a generation at a source location. -/
def applyEvent (isEntry : Bool) (loc : Option Nat) (s : State) : Event → State
  | .warn code info => s.warn code info (sourceLoc loc)
  | .insn x => s.appendInsn x isEntry loc

/-- The events of a generation in their order. -/
def applyEvents (isEntry : Bool) (loc : Option Nat) (s : State) (es : List Event) : State :=
  es.foldl (applyEvent isEntry loc) s

/-- A whole generation: its events, then its fatal error or the next stage. -/
def settle (g : Gen Unit) (isEntry : Bool) (loc : Option Nat) (next : Task) (s : State) : State :=
  let s1 := applyEvents isEntry loc s g.events
  match g.result with
  | .ok _ => { s1 with task := next }
  | .error e => s1.raise e.code e.info (sourceLoc loc)

/-- The source location of a statement (45_resolution.md rule R259). -/
def stmtLoc : Stmt → Option Nat
  | .insn _ _ loc => loc
  | .label _ loc => loc
  | .arch _ loc => loc
  | .start _ loc => loc

/-- The source location of the statement being processed. -/
def currentLoc (todo : List Stmt) : Option Nat := todo.head?.bind stmtLoc

/-- `E12` for a state the model's own invariants forbid (60_exceptions.md rule R386). -/
def State.raiseInternal (s : State) : State := s.raise .E12 (.text "internal invariant violated") .none

/-- The encoder generates the current statement and goes on to the next one (45_resolution.md rule R262). -/
def generateStatement (g : Params → Arch → Gen Unit) (todo : List Stmt) (s : State) : State :=
  match s.cfg.arch with
  | none => s.raiseInternal
  | some a => settle (g s.cfg.params a) false (currentLoc todo) (.generate todo.tail) s

/-! ### Delivery of a decoded word -/

/-- What the decoder does besides reading the operands of a word (47_decoder.md rule R317): the slots that are
link-register fields, the jump target it records, and the slots whose value is checked against a constant. -/
structure Recipe where
  lrSlots : List Nat
  target : Option Operand
  consts : List (Nat × Nat)

/-- The recipe of a form with nothing to record or check. -/
def Recipe.plain : Recipe := ⟨[], none, []⟩

/-- The recipe of a form that records a jump target and checks nothing (47_decoder.md rule R320). -/
def Recipe.jump (t : Operand) : Recipe := ⟨[], some t, []⟩

/-- The field of slot 0, 1 or 2. -/
def slotOf (x : Decode.WordFields) : Nat → Nat
  | 0 => x.f0
  | 1 => x.f1
  | _ => x.f2

/-- The warning of `DEC_LR` for a field that is no link register (43_call_ret_nap.md rule R230). -/
def checkLr (x : Decode.WordFields) (k : Nat) (s : State) (slot : Nat) : State :=
  if slotOf x slot ∈ s.cfg.params.lrFields then s else s.warn .W7 (.value (slotOf x slot)) (.word k)

/-- The constant sub-field check (43_call_ret_nap.md rule R231). -/
def checkConst (mnem : String) (x : Decode.WordFields) (k : Nat) (s : State) (c : Nat × Nat) : State :=
  if slotOf x c.1 = c.2 then s else s.warn .W7 (.subfield mnem c.1 (slotOf x c.1)) (.word k)

/-- Insert into a list in increasing order, reusing an element that is already there (47_decoder.md rule R321). -/
def insertTarget (t : Nat) : List Nat → List Nat
  | [] => [t]
  | u :: us => if t < u then t :: u :: us else if t = u then u :: us else u :: insertTarget t us

/-- `TARGET_DEC(t)` (47_decoder.md rule R320): the target's range check, then its marker. `none`: fatal. -/
def recordTarget (t : Option Operand) (k : Nat) (s : State) : State × Bool :=
  match t with
  | none => (s, true)
  | some (.address t) =>
    if s.count ≤ t then (s.raise .E18 (.value t) (.word k), false)
    else ({ s with targets := insertTarget t s.targets }, true)
  | some _ => (s.raiseInternal, false)

/-- The decoder delivers word `k` as the statement `i` and goes on to the next word (47_decoder.md rules R314 to R320): the
operands in order, the link-register warnings and the target among them, then the constant sub-fields. -/
def deliver (i : Instr) (r : Recipe) (k : Nat) (s : State) : State :=
  match s.cfg.arch, s.words[k]? with
  | some a, some w =>
    let x := Decode.unpack a w
    let s1 := r.lrSlots.foldl (checkLr x k) s
    match recordTarget r.target k s1 with
    | (s2, false) => s2
    | (s2, true) =>
      let s3 := r.consts.foldl (checkConst (Statements.spell (Statements.mnemonicOf i)) x k) s2
      { s3 with decoded := s3.decoded ++ [(k, i)], task := .classify (k + 1) }
  | _, _ => s.raiseInternal

/-! ### An instruction meaning -/

/-- The meaning of an instruction at the running unit: the encoder generates it, the decoder delivers it. A form without a
recipe is one the decoder never yields (30_encoding.md rule R107). -/
def perform (i : Instr) (g : Params → Arch → Gen Unit) (r : Params → Option Recipe) (s : State) :
    Host.Outcome State Fault Refusal :=
  match s.task with
  | .generate todo => .next (generateStatement g todo s)
  | .classify k =>
    match r s.cfg.params with
    | some recipe => .next (deliver i recipe k s)
    | none => .next s.raiseInternal
  | _ => .fault .noInstructionHere

end Sys2Proof.Machine
end

