-- ==== Sys2Proof/Machine/Operands.lean ====
section
/-! DEFINITION. Every operand form of the encoder: the standard operand encoder `ENC_OP` and its classes (30_encoding.md
rules R87 to R94), the co-occurrence rule (rule R82), auxiliary operands and jump targets (41_extended.md rules R170, R171)
and link-register positions (43_call_ret_nap.md rule R230). -/

namespace Sys2Proof.Machine

open Sys2Proof

/-- `ENC_IMM(a, v)` (30_encoding.md rule R88). -/
def encImm (a : Arch) (v : Imm) : Gen Field :=
  if Flags.isValidImmediate a v then
    .pure (.value (Config.immTag a ||| (v.setWidth (Config.immW a)).toNat))
  else .fail .E13 (.value v.toInt)

/-- `ENC_GPR(a, n)` (30_encoding.md rule R89). -/
def encGpr (p : Params) (a : Arch) (n : Nat) : Gen Field :=
  if 2 ^ Config.gprW a ≤ n then .fail .E7 (.value n) else .pure (.value ((p.layout a).gprTag ||| n))

/-- `ENC_SPR(a, n)` (30_encoding.md rule R90). -/
def encSpr (p : Params) (a : Arch) (n : Nat) : Gen Field :=
  if 2 ^ Config.sprW a ≤ n then .fail .E7 (.value n) else .pure (.value ((p.layout a).sprTag ||| n))

/-- `ENC_DIR(a, o)` (30_encoding.md rule R91). -/
def encDir (a : Arch) (o : Nat) : Gen Field :=
  if 2 ^ Config.dirW a ≤ o then .warn .W2 (.value o) (.value (o &&& mask (Config.dirW a)))
  else .pure (.value o)

/-- `ENC_IND(a, o, r)` (30_encoding.md rule R92). -/
def encInd (p : Params) (a : Arch) (o r : Nat) : Gen Field :=
  let l := p.layout a
  if l.offrMax < r then .fail .E7 (.value r)
  else
    Gen.bind (if a = .rev5 ∧ r = 6 then .warn .W3 (.value r) () else .pure ()) fun _ =>
    Gen.bind (if 2 ^ Config.indOffW ≤ o then .warn .W2 (.value o) (o &&& mask Config.indOffW) else .pure o) fun o' =>
    .pure (.value (l.indTag ||| r <<< l.offrShift ||| o'))

/-- `ENC_RAW(a, v)` (30_encoding.md rule R94). -/
def encRaw (a : Arch) (v : Nat) : Gen Field :=
  if 2 ^ Config.fw a ≤ v then .fail .E22 (.value v) else .pure (.value v)

/-- An `Address` in slot 2 (30_encoding.md rule R93): `PENDING` once its range is checked. -/
def encAddress (a : Arch) (t : Nat) : Gen Field :=
  if 2 ^ Config.fw a ≤ t then .fail .E16 (.value t) else .pure (.pending (.address t))

/-- `ENC_OP` in slot 0 or 1 (30_encoding.md rules R87, R93, R108). The offending value of the `E15` of an `Address`, which rule
R93 refuses without a text, is the operand (DESIGN CHOICE, notes/assumptions/8.md). -/
def encIn (p : Params) (a : Arch) : Operand → Gen Field
  | .imm v => encImm a v
  | .reg .gpr n => encGpr p a n
  | .reg .spr n => encSpr p a n
  | .reg .offr _ => .fail .E15 (.text "OFFR outside a memory operand")
  | .direct o => encDir a o
  | .indirect o r => encInd p a o r
  | .labelRef name dir => .pure (.pending (.label name dir))
  | .address t => .fail .E15 (.operands [.address t])
  | .raw v => encRaw a v
  | .linkReg _ => .fail .E15 (.text "link register outside call/ret")
  | .number _ => .fail .E15 (.text "bare number in an operand slot")

/-- `ENC_OP` in slot 2 (30_encoding.md rules R87, R93, R108): the kinds of slots 0 and 1, and `Address`. -/
def encOut (p : Params) (a : Arch) : Operand → Gen Field
  | .address t => encAddress a t
  | op => encIn p a op

/-- `check_cooccur` on slots 0 and 1 (30_encoding.md rule R82). The offending value is the two operands
(notes/assumptions/8.md). -/
def checkCooccur (x y : Operand) : Gen Unit :=
  if Flags.isMemory x && Flags.isMemory y then .fail .E6 (.operands [x, y])
  else if Flags.isSpr x && Flags.isSpr y then .fail .E5 (.operands [x, y])
  else .pure ()

/-- `TARGET(a, X)`, the jump-target slot (41_extended.md rule R171). -/
def encTarget (a : Arch) : Operand → Gen Field
  | .labelRef name dir => .pure (.pending (.label name dir))
  | .address t => encAddress a t
  | .raw v => encRaw a v
  | _ => .fail .E15 (.text "not a jump target")

/-- `AUX(op, max)` (41_extended.md rule R170). The offending value of `E15` is the operand (notes/assumptions/8.md). -/
def encAux (max : Nat) : Operand → Gen Nat
  | .number v => if 0 ≤ v ∧ v ≤ max then .pure v.toNat else .fail .E14 (.value v)
  | .imm v => if 0 ≤ v.toInt ∧ v.toInt ≤ max then .pure v.toInt.toNat else .fail .E14 (.value v.toInt)
  | op => .fail .E15 (.operands [op])

/-- `ENC_LR(a, X)` (43_call_ret_nap.md rule R230). The offending value of `E15` is the operand (notes/assumptions/8.md). -/
def encLr (p : Params) (a : Arch) : Operand → Gen Field
  | .linkReg n =>
    match p.lrFields[n]? with
    | some f => .pure (.value f)
    | none => .fail .E7 (.value n)
  | .raw v => encRaw a v
  | op => .fail .E15 (.operands [op])

/-- Slots 0 and 1 of a form that takes two input operands: slot 0, slot 1, then the co-occurrence rule (60_exceptions.md
rule R387). -/
def encPair (p : Params) (a : Arch) (x y : Operand) : Gen (Field × Field) :=
  Gen.bind (encIn p a x) fun f0 =>
  Gen.bind (encIn p a y) fun f1 =>
  Gen.bind (checkCooccur x y) fun _ =>
  .pure (f0, f1)

end Sys2Proof.Machine
end

