-- ==== Sys2Proof/Machine/Calls.lean ====
section
/-! DEFINITION. Calls, returns, `nap` and the raw form (43_call_ret_nap.md). -/

namespace Sys2Proof.Machine

open Sys2Proof

/-- The encoding of `call` (43_call_ret_nap.md rule R232). -/
def genCall (lr t : Operand) (p : Params) (a : Arch) : Gen Unit :=
  Gen.bind (encLr p a lr) fun f0 =>
  Gen.bind (encTarget a t) fun f2 =>
  .emit ⟨"call", p.opcodes.call, f0, .value p.constants.call1, f2, true⟩

/-- The encoding of `calls` (43_call_ret_nap.md rule R233). -/
def genCalls (t : Operand) (p : Params) (a : Arch) : Gen Unit :=
  Gen.bind (encTarget a t) fun f2 =>
  .emit ⟨"calls", p.opcodes.calls, .value p.constants.calls0, .value p.constants.calls1, f2, true⟩

/-- The encoding of `ret` (43_call_ret_nap.md rule R234). -/
def genRet (x y z : Operand) (p : Params) (a : Arch) : Gen Unit :=
  Gen.bind (encLr p a x) fun f0 =>
  Gen.bind (encLr p a y) fun f1 =>
  Gen.bind (encLr p a z) fun f2 =>
  .emit ⟨"ret", p.opcodes.ret, f0, f1, f2, false⟩

/-- The encoding of `rets` (43_call_ret_nap.md rule R235). -/
def genRets (p : Params) (_a : Arch) : Gen Unit :=
  .emit ⟨"rets", p.opcodes.rets, .value p.constants.rets0, .value p.constants.rets1, .value p.constants.rets2, false⟩

/-- The encoding of `nap` (43_call_ret_nap.md rule R235). -/
def genNap (p : Params) (_a : Arch) : Gen Unit :=
  .emit ⟨"nap", p.opcodes.nap, .value p.constants.nap0, .value p.constants.nap1, .value p.constants.nap2, false⟩

/-- The encoding of the raw form `@h` (43_call_ret_nap.md rule R236). -/
def genRaw (h : Nat) (x y z : Operand) (p : Params) (a : Arch) : Gen Unit :=
  if 0xFFF < h then .fail .E22 (.value h)
  else
    Gen.bind (encPair p a x y) fun f =>
    Gen.bind (encOut p a z) fun f2 =>
    .emit ⟨Statements.spell (.raw h), BitVec.ofNat 12 h, f.1, f.2, f2, false⟩

/-- `call` (43_call_ret_nap.md rules R230 to R232). -/
def execCall (lr t : Operand) (s : State) : Host.Outcome State Fault Refusal :=
  perform (.call lr t) (genCall lr t) (fun p => some ⟨[0], some t, [(1, p.constants.call1)]⟩) s

/-- `calls` (43_call_ret_nap.md rules R231, R233). -/
def execCalls (t : Operand) (s : State) : Host.Outcome State Fault Refusal :=
  perform (.calls t) (genCalls t) (fun p => some ⟨[], some t, [(0, p.constants.calls0), (1, p.constants.calls1)]⟩) s

/-- `ret` (43_call_ret_nap.md rules R230, R234). -/
def execRet (x y z : Operand) (s : State) : Host.Outcome State Fault Refusal :=
  perform (.ret x y z) (genRet x y z) (fun _ => some ⟨[0, 1, 2], none, []⟩) s

/-- `rets` (43_call_ret_nap.md rules R231, R235). -/
def execRets (s : State) : Host.Outcome State Fault Refusal :=
  perform .rets genRets
    (fun p => some ⟨[], none, [(0, p.constants.rets0), (1, p.constants.rets1), (2, p.constants.rets2)]⟩) s

/-- `nap` (43_call_ret_nap.md rules R231, R235). -/
def execNap (s : State) : Host.Outcome State Fault Refusal :=
  perform .nap genNap
    (fun p => some ⟨[], none, [(0, p.constants.nap0), (1, p.constants.nap1), (2, p.constants.nap2)]⟩) s

/-- `@h` (43_call_ret_nap.md rule R236, 47_decoder.md rule R332). -/
def execRaw (h : Nat) (x y z : Operand) (s : State) : Host.Outcome State Fault Refusal :=
  perform (.raw h x y z) (genRaw h x y z) (fun _ => some .plain) s

end Sys2Proof.Machine
end

