-- ==== Sys2Proof/Machine/Extended.lean ====
section
/-! DEFINITION. The extended-opcode instructions (41_extended.md): their generation by the encoder and their delivery by
the decoder. -/

namespace Sys2Proof.Machine

open Sys2Proof

/-- `ENC_EXT(a, m, Mop, Sop, A, B, X)` (41_extended.md rule R172): the auxiliary operands first, then the slots; slot 2 is
an operand for `srx` and `orx` (`isJump = false`) and a jump target for `jzx` and `jnzx`. -/
def genExt (m : String) (fam : Opcodes → Family) (isJump : Bool) (mop sop x y z : Operand) (p : Params) (a : Arch) : Gen Unit :=
  Gen.bind (encAux 15 mop) fun mv =>
  Gen.bind (encAux 15 sop) fun sv =>
  Gen.bind (encPair p a x y) fun f =>
  Gen.bind (if isJump then encTarget a z else encOut p a z) fun f2 =>
  .emit ⟨m, Decode.extOpcode (fam p.opcodes) mv sv, f.1, f.2, f2, isJump⟩

/-- `ENC_COND(a, m, Cop, A, B, target)` (41_extended.md rule R173). -/
def genCond (m : String) (fam : Opcodes → Family) (cop x y t : Operand) (p : Params) (a : Arch) : Gen Unit :=
  Gen.bind (encAux 255 cop) fun cv =>
  Gen.bind (encPair p a x y) fun f =>
  Gen.bind (encTarget a t) fun f2 =>
  .emit ⟨m, Decode.condOpcode (fam p.opcodes) cv, f.1, f.2, f2, true⟩

/-- `srx` (41_extended.md rules R172, R174, R176). -/
def execSrx (m sh a b d : Operand) (s : State) : Host.Outcome State Fault Refusal :=
  perform (.srx m sh a b d) (genExt "srx" (·.srx) false m sh a b d) (fun _ => some .plain) s

/-- `orx` (41_extended.md rules R172, R174, R177). -/
def execOrx (m sh a b d : Operand) (s : State) : Host.Outcome State Fault Refusal :=
  perform (.orx m sh a b d) (genExt "orx" (·.orx) false m sh a b d) (fun _ => some .plain) s

/-- `jzx` (41_extended.md rules R172, R174, R178). -/
def execJzx (m sh a b t : Operand) (s : State) : Host.Outcome State Fault Refusal :=
  perform (.jzx m sh a b t) (genExt "jzx" (·.jzx) true m sh a b t) (fun _ => some (.jump t)) s

/-- `jnzx` (41_extended.md rules R172, R174, R179). -/
def execJnzx (m sh a b t : Operand) (s : State) : Host.Outcome State Fault Refusal :=
  perform (.jnzx m sh a b t) (genExt "jnzx" (·.jnzx) true m sh a b t) (fun _ => some (.jump t)) s

/-- `jext` (41_extended.md rules R173, R174, R180). -/
def execJext (c a b t : Operand) (s : State) : Host.Outcome State Fault Refusal :=
  perform (.jext c a b t) (genCond "jext" (·.jext) c a b t) (fun _ => some (.jump t)) s

/-- `jnext` (41_extended.md rules R173, R174, R181). -/
def execJnext (c a b t : Operand) (s : State) : Host.Outcome State Fault Refusal :=
  perform (.jnext c a b t) (genCond "jnext" (·.jnext) c a b t) (fun _ => some (.jump t)) s

end Sys2Proof.Machine
end

