-- ==== Sys2Proof/Machine/Jumps.lean ====
section
/-! DEFINITION. The conditional jumps (42_jumps.md), with the selection and emulation of `jand` and `jnand` (rule R191). -/

namespace Sys2Proof.Machine

open Sys2Proof

/-- `ENC_CJMP(a, m, A, B, target)` (42_jumps.md rule R190). -/
def genCjmp (m : String) (opc : Opcodes → Opcode) (x y t : Operand) (p : Params) (a : Arch) : Gen Unit :=
  Gen.bind (encPair p a x y) fun f =>
  Gen.bind (encTarget a t) fun f2 =>
  .emit ⟨m, opc p.opcodes, f.1, f.2, f2, true⟩

/-- The emulation of a wide immediate `v` against the other operand `x` by the bit-field jump `m` of family `fam`
(42_jumps.md rule R191). -/
def genMaskJump (m : String) (fam : Opcodes → Family) (v : Imm) (x t : Operand) (p : Params) (a : Arch) : Gen Unit :=
  if Flags.isPossibleImmediate v then
    let k : BitVec 16 := v.setWidth 16
    if Flags.isContiguousBitmask (k.setWidth 32) then
      Gen.bind (.warn .W5 (.value v.toInt) ()) fun _ =>
      genExt m fam true (.number (Flags.popcount k - 1 : Nat)) (.number (Flags.lowestSetBit k : Nat)) x (.imm 0) t p a
    else .fail .E8 (.value v.toInt)
  else .fail .E13 (.value v.toInt)

/-- `ENC_JAND(a, m, A, B, target)` (42_jumps.md rule R191), the bit-field jump `m'` of family `fam` being the emulation's. The
offending value of two wide immediates is the two operands (notes/assumptions/8.md). -/
def genJand (m : String) (opc : Opcodes → Opcode) (m' : String) (fam : Opcodes → Family) (x y t : Operand) (p : Params)
    (a : Arch) : Gen Unit :=
  if Flags.isValidImmOperand a x || Flags.isValidImmOperand a y || (!Flags.isImm x && !Flags.isImm y) then
    genCjmp m opc x y t p a
  else
    match x, y with
    | .imm _, .imm _ => .fail .E13 (.operands [x, y])
    | .imm v, r => genMaskJump m' fam v r t p a
    | r, .imm v => genMaskJump m' fam v r t p a
    | _, _ => genCjmp m opc x y t p a

/-- `jand` (42_jumps.md rules R190, R191, R194). -/
def execJand (a b t : Operand) (s : State) : Host.Outcome State Fault Refusal :=
  perform (.jand a b t) (genJand "jand" (·.jand) "jnzx" (·.jnzx) a b t) (fun _ => some (.jump t)) s

/-- `jnand` (42_jumps.md rules R190, R191, R195). -/
def execJnand (a b t : Operand) (s : State) : Host.Outcome State Fault Refusal :=
  perform (.jnand a b t) (genJand "jnand" (·.jnand) "jzx" (·.jzx) a b t) (fun _ => some (.jump t)) s

/-- `js` (42_jumps.md rules R190, R192, R196). -/
def execJs (a b t : Operand) (s : State) : Host.Outcome State Fault Refusal :=
  perform (.js a b t) (genCjmp "js" (·.js) a b t) (fun _ => some (.jump t)) s

/-- `jns` (42_jumps.md rules R190, R192, R197). -/
def execJns (a b t : Operand) (s : State) : Host.Outcome State Fault Refusal :=
  perform (.jns a b t) (genCjmp "jns" (·.jns) a b t) (fun _ => some (.jump t)) s

/-- `je` (42_jumps.md rules R190, R192, R198). -/
def execJe (a b t : Operand) (s : State) : Host.Outcome State Fault Refusal :=
  perform (.je a b t) (genCjmp "je" (·.je) a b t) (fun _ => some (.jump t)) s

/-- `jne` (42_jumps.md rules R190, R192, R199). -/
def execJne (a b t : Operand) (s : State) : Host.Outcome State Fault Refusal :=
  perform (.jne a b t) (genCjmp "jne" (·.jne) a b t) (fun _ => some (.jump t)) s

/-- `jls` (42_jumps.md rules R190, R192, R200). -/
def execJls (a b t : Operand) (s : State) : Host.Outcome State Fault Refusal :=
  perform (.jls a b t) (genCjmp "jls" (·.jls) a b t) (fun _ => some (.jump t)) s

/-- `jges` (42_jumps.md rules R190, R192, R201). -/
def execJges (a b t : Operand) (s : State) : Host.Outcome State Fault Refusal :=
  perform (.jges a b t) (genCjmp "jges" (·.jges) a b t) (fun _ => some (.jump t)) s

/-- `jgs` (42_jumps.md rules R190, R192, R202). -/
def execJgs (a b t : Operand) (s : State) : Host.Outcome State Fault Refusal :=
  perform (.jgs a b t) (genCjmp "jgs" (·.jgs) a b t) (fun _ => some (.jump t)) s

/-- `jles` (42_jumps.md rules R190, R192, R203). -/
def execJles (a b t : Operand) (s : State) : Host.Outcome State Fault Refusal :=
  perform (.jles a b t) (genCjmp "jles" (·.jles) a b t) (fun _ => some (.jump t)) s

/-- `jdn` (42_jumps.md rules R190, R192, R204). -/
def execJdn (a b t : Operand) (s : State) : Host.Outcome State Fault Refusal :=
  perform (.jdn a b t) (genCjmp "jdn" (·.jdn) a b t) (fun _ => some (.jump t)) s

/-- `jdpz` (42_jumps.md rules R190, R192, R205). -/
def execJdpz (a b t : Operand) (s : State) : Host.Outcome State Fault Refusal :=
  perform (.jdpz a b t) (genCjmp "jdpz" (·.jdpz) a b t) (fun _ => some (.jump t)) s

/-- `jdp` (42_jumps.md rules R190, R192, R206). -/
def execJdp (a b t : Operand) (s : State) : Host.Outcome State Fault Refusal :=
  perform (.jdp a b t) (genCjmp "jdp" (·.jdp) a b t) (fun _ => some (.jump t)) s

/-- `jdnz` (42_jumps.md rules R190, R192, R207). -/
def execJdnz (a b t : Operand) (s : State) : Host.Outcome State Fault Refusal :=
  perform (.jdnz a b t) (genCjmp "jdnz" (·.jdnz) a b t) (fun _ => some (.jump t)) s

/-- `jl` (42_jumps.md rules R190, R192, R208). -/
def execJl (a b t : Operand) (s : State) : Host.Outcome State Fault Refusal :=
  perform (.jl a b t) (genCjmp "jl" (·.jl) a b t) (fun _ => some (.jump t)) s

/-- `jge` (42_jumps.md rules R190, R192, R209). -/
def execJge (a b t : Operand) (s : State) : Host.Outcome State Fault Refusal :=
  perform (.jge a b t) (genCjmp "jge" (·.jge) a b t) (fun _ => some (.jump t)) s

/-- `jg` (42_jumps.md rules R190, R192, R210). -/
def execJg (a b t : Operand) (s : State) : Host.Outcome State Fault Refusal :=
  perform (.jg a b t) (genCjmp "jg" (·.jg) a b t) (fun _ => some (.jump t)) s

/-- `jle` (42_jumps.md rules R190, R192, R211). -/
def execJle (a b t : Operand) (s : State) : Host.Outcome State Fault Refusal :=
  perform (.jle a b t) (genCjmp "jle" (·.jle) a b t) (fun _ => some (.jump t)) s

end Sys2Proof.Machine
end

