-- ==== Sys2Proof/Machine/Standard.lean ====
section
/-! DEFINITION. The standard three-operand and the TKIP instructions (40_alu.md): their generation by the encoder and
their delivery by the decoder. -/

namespace Sys2Proof.Machine

open Sys2Proof

/-- `ENC_STD3(a, m, A, B, D)` (40_alu.md rule R130). -/
def genStd3 (m : String) (opc : Opcodes → Opcode) (x y d : Operand) (p : Params) (a : Arch) : Gen Unit :=
  Gen.bind (encPair p a x y) fun f =>
  Gen.bind (encOut p a d) fun f2 =>
  .emit ⟨m, opc p.opcodes, f.1, f.2, f2, false⟩

/-- The encoding of a TKIP2 instruction (40_alu.md rule R151). -/
def genTkip2 (m : String) (opc : Opcodes → Opcode) (x d : Operand) (p : Params) (a : Arch) : Gen Unit :=
  Gen.bind (encIn p a x) fun f0 =>
  Gen.bind (encOut p a d) fun f2 =>
  .emit ⟨m, opc p.opcodes, f0, .value p.constants.tkip1, f2, false⟩

/-- The decoding of a TKIP2 word: slot 1 is checked (40_alu.md rule R151). -/
def tkip2Recipe (p : Params) : Option Recipe := some ⟨[], none, [(1, p.constants.tkip1)]⟩

/-- `mul` (40_alu.md rules R130 to R132, R133). -/
def execMul (a b d : Operand) (s : State) : Host.Outcome State Fault Refusal :=
  perform (.mul a b d) (genStd3 "mul" (·.mul) a b d) (fun _ => some .plain) s

/-- `add` (40_alu.md rules R130 to R132, R134). -/
def execAdd (a b d : Operand) (s : State) : Host.Outcome State Fault Refusal :=
  perform (.add a b d) (genStd3 "add" (·.add) a b d) (fun _ => some .plain) s

/-- `add.` (40_alu.md rules R130 to R132, R135). -/
def execAddDot (a b d : Operand) (s : State) : Host.Outcome State Fault Refusal :=
  perform (.addDot a b d) (genStd3 "add." (·.addDot) a b d) (fun _ => some .plain) s

/-- `addc` (40_alu.md rules R130 to R132, R136). -/
def execAddc (a b d : Operand) (s : State) : Host.Outcome State Fault Refusal :=
  perform (.addc a b d) (genStd3 "addc" (·.addc) a b d) (fun _ => some .plain) s

/-- `addc.` (40_alu.md rules R130 to R132, R137). -/
def execAddcDot (a b d : Operand) (s : State) : Host.Outcome State Fault Refusal :=
  perform (.addcDot a b d) (genStd3 "addc." (·.addcDot) a b d) (fun _ => some .plain) s

/-- `sub` (40_alu.md rules R130 to R132, R138). -/
def execSub (a b d : Operand) (s : State) : Host.Outcome State Fault Refusal :=
  perform (.sub a b d) (genStd3 "sub" (·.sub) a b d) (fun _ => some .plain) s

/-- `sub.` (40_alu.md rules R130 to R132, R139). -/
def execSubDot (a b d : Operand) (s : State) : Host.Outcome State Fault Refusal :=
  perform (.subDot a b d) (genStd3 "sub." (·.subDot) a b d) (fun _ => some .plain) s

/-- `subc` (40_alu.md rules R130 to R132, R140). -/
def execSubc (a b d : Operand) (s : State) : Host.Outcome State Fault Refusal :=
  perform (.subc a b d) (genStd3 "subc" (·.subc) a b d) (fun _ => some .plain) s

/-- `subc.` (40_alu.md rules R130 to R132, R141). -/
def execSubcDot (a b d : Operand) (s : State) : Host.Outcome State Fault Refusal :=
  perform (.subcDot a b d) (genStd3 "subc." (·.subcDot) a b d) (fun _ => some .plain) s

/-- `sra` (40_alu.md rules R130 to R132, R142). -/
def execSra (a b d : Operand) (s : State) : Host.Outcome State Fault Refusal :=
  perform (.sra a b d) (genStd3 "sra" (·.sra) a b d) (fun _ => some .plain) s

/-- `or` (40_alu.md rules R130 to R132, R143). -/
def execOr (a b d : Operand) (s : State) : Host.Outcome State Fault Refusal :=
  perform (.or a b d) (genStd3 "or" (·.or) a b d) (fun _ => some .plain) s

/-- `and` (40_alu.md rules R130 to R132, R144). -/
def execAnd (a b d : Operand) (s : State) : Host.Outcome State Fault Refusal :=
  perform (.and a b d) (genStd3 "and" (·.and) a b d) (fun _ => some .plain) s

/-- `xor` (40_alu.md rules R130 to R132, R145). -/
def execXor (a b d : Operand) (s : State) : Host.Outcome State Fault Refusal :=
  perform (.xor a b d) (genStd3 "xor" (·.xor) a b d) (fun _ => some .plain) s

/-- `sr` (40_alu.md rules R130 to R132, R146). -/
def execSr (a b d : Operand) (s : State) : Host.Outcome State Fault Refusal :=
  perform (.sr a b d) (genStd3 "sr" (·.sr) a b d) (fun _ => some .plain) s

/-- `sl` (40_alu.md rules R130 to R132, R147). -/
def execSl (a b d : Operand) (s : State) : Host.Outcome State Fault Refusal :=
  perform (.sl a b d) (genStd3 "sl" (·.sl) a b d) (fun _ => some .plain) s

/-- `rl` (40_alu.md rules R130 to R132, R148). -/
def execRl (a b d : Operand) (s : State) : Host.Outcome State Fault Refusal :=
  perform (.rl a b d) (genStd3 "rl" (·.rl) a b d) (fun _ => some .plain) s

/-- `rr` (40_alu.md rules R130 to R132, R149). -/
def execRr (a b d : Operand) (s : State) : Host.Outcome State Fault Refusal :=
  perform (.rr a b d) (genStd3 "rr" (·.rr) a b d) (fun _ => some .plain) s

/-- `nand` (40_alu.md rules R130 to R132, R150). -/
def execNand (a b d : Operand) (s : State) : Host.Outcome State Fault Refusal :=
  perform (.nand a b d) (genStd3 "nand" (·.nand) a b d) (fun _ => some .plain) s

/-- `tkiph` (40_alu.md rules R151, R152). -/
def execTkiph (a d : Operand) (s : State) : Host.Outcome State Fault Refusal :=
  perform (.tkiph a d) (genTkip2 "tkiph" (·.tkiph) a d) tkip2Recipe s

/-- `tkiphs` (40_alu.md rules R151, R153). -/
def execTkiphs (a d : Operand) (s : State) : Host.Outcome State Fault Refusal :=
  perform (.tkiphs a d) (genTkip2 "tkiphs" (·.tkiphs) a d) tkip2Recipe s

/-- `tkipl` (40_alu.md rules R151, R154). -/
def execTkipl (a d : Operand) (s : State) : Host.Outcome State Fault Refusal :=
  perform (.tkipl a d) (genTkip2 "tkipl" (·.tkipl) a d) tkip2Recipe s

/-- `tkipls` (40_alu.md rules R151, R155). -/
def execTkipls (a d : Operand) (s : State) : Host.Outcome State Fault Refusal :=
  perform (.tkipls a d) (genTkip2 "tkipls" (·.tkipls) a d) tkip2Recipe s

end Sys2Proof.Machine
end

