-- ==== Sys2Proof/Machine/Pseudo.lean ====
section
/-! DEFINITION. The pseudo-instructions `mov` and `jmp` (44_pseudo.md): each is generated as the instructions it expands to,
in order, by the full rules of their mnemonics (rule R251). The decoder yields neither (30_encoding.md rule R107). -/

namespace Sys2Proof.Machine

open Sys2Proof

/-- `ENC_MOV(a, src, dst)` (44_pseudo.md rule R250). -/
def genMov (src dst : Operand) (p : Params) (a : Arch) : Gen Unit :=
  match src with
  | .imm v =>
    if Flags.isValidImmediate a v then genStd3 "or" (·.or) src (.imm 0) dst p a
    else if Flags.isPossibleImmediate v then
      let hiByte : Operand := .imm ((v >>> 8) &&& 0xFF)
      let loByte : Operand := .imm (v &&& 0xFF)
      let m : Operand := .number Config.movMask
      let sh : Operand := .number Config.movShift
      Gen.bind (.warn .W5 (.value v.toInt) ()) fun _ =>
      match p.movEmul with
      | .singleOrx => genExt "orx" (·.orx) false m sh hiByte loByte dst p a
      | .orLoThenOrxHi =>
        Gen.bind (genStd3 "or" (·.or) loByte (.imm 0) dst p a) fun _ =>
        genExt "orx" (·.orx) false m sh hiByte dst dst p a
    else .fail .E13 (.value v.toInt)
  | _ => genStd3 "or" (·.or) src (.imm 0) dst p a

/-- The expansion of `jmp target`, `jext 0x7F, r0, r0, target` (44_pseudo.md rule R252). -/
def genJmp (t : Operand) (p : Params) (a : Arch) : Gen Unit :=
  genCond "jext" (·.jext) (.number Config.condAlways) (.reg .gpr 0) (.reg .gpr 0) t p a

/-- `mov` (44_pseudo.md rules R250, R251). -/
def execMov (src dst : Operand) (s : State) : Host.Outcome State Fault Refusal :=
  perform (.mov src dst) (genMov src dst) (fun _ => none) s

/-- `jmp` (44_pseudo.md rules R251, R252). -/
def execJmp (t : Operand) (s : State) : Host.Outcome State Fault Refusal :=
  perform (.jmp t) (genJmp t) (fun _ => none) s

end Sys2Proof.Machine
end

