-- ==== Sys2Proof/Machine/Dispatch.lean ====
section
/-! DEFINITION. One arm per instruction of the opcode table. -/

namespace Sys2Proof.Machine

def exec (i : Instr) (s : State) : Host.Outcome State Fault Refusal :=
  match i with
  | .mul a b d => Sys2Proof.Machine.execMul a b d s
  | .add a b d => Sys2Proof.Machine.execAdd a b d s
  | .addDot a b d => Sys2Proof.Machine.execAddDot a b d s
  | .addc a b d => Sys2Proof.Machine.execAddc a b d s
  | .addcDot a b d => Sys2Proof.Machine.execAddcDot a b d s
  | .sub a b d => Sys2Proof.Machine.execSub a b d s
  | .subDot a b d => Sys2Proof.Machine.execSubDot a b d s
  | .subc a b d => Sys2Proof.Machine.execSubc a b d s
  | .subcDot a b d => Sys2Proof.Machine.execSubcDot a b d s
  | .sra a b d => Sys2Proof.Machine.execSra a b d s
  | .or a b d => Sys2Proof.Machine.execOr a b d s
  | .and a b d => Sys2Proof.Machine.execAnd a b d s
  | .xor a b d => Sys2Proof.Machine.execXor a b d s
  | .sr a b d => Sys2Proof.Machine.execSr a b d s
  | .sl a b d => Sys2Proof.Machine.execSl a b d s
  | .rl a b d => Sys2Proof.Machine.execRl a b d s
  | .rr a b d => Sys2Proof.Machine.execRr a b d s
  | .nand a b d => Sys2Proof.Machine.execNand a b d s
  | .tkiph a d => Sys2Proof.Machine.execTkiph a d s
  | .tkiphs a d => Sys2Proof.Machine.execTkiphs a d s
  | .tkipl a d => Sys2Proof.Machine.execTkipl a d s
  | .tkipls a d => Sys2Proof.Machine.execTkipls a d s
  | .srx m sh a b d => Sys2Proof.Machine.execSrx m sh a b d s
  | .orx m sh a b d => Sys2Proof.Machine.execOrx m sh a b d s
  | .jzx m sh a b t => Sys2Proof.Machine.execJzx m sh a b t s
  | .jnzx m sh a b t => Sys2Proof.Machine.execJnzx m sh a b t s
  | .jext c a b t => Sys2Proof.Machine.execJext c a b t s
  | .jnext c a b t => Sys2Proof.Machine.execJnext c a b t s
  | .jand a b t => Sys2Proof.Machine.execJand a b t s
  | .jnand a b t => Sys2Proof.Machine.execJnand a b t s
  | .js a b t => Sys2Proof.Machine.execJs a b t s
  | .jns a b t => Sys2Proof.Machine.execJns a b t s
  | .je a b t => Sys2Proof.Machine.execJe a b t s
  | .jne a b t => Sys2Proof.Machine.execJne a b t s
  | .jls a b t => Sys2Proof.Machine.execJls a b t s
  | .jges a b t => Sys2Proof.Machine.execJges a b t s
  | .jgs a b t => Sys2Proof.Machine.execJgs a b t s
  | .jles a b t => Sys2Proof.Machine.execJles a b t s
  | .jdn a b t => Sys2Proof.Machine.execJdn a b t s
  | .jdpz a b t => Sys2Proof.Machine.execJdpz a b t s
  | .jdp a b t => Sys2Proof.Machine.execJdp a b t s
  | .jdnz a b t => Sys2Proof.Machine.execJdnz a b t s
  | .jl a b t => Sys2Proof.Machine.execJl a b t s
  | .jge a b t => Sys2Proof.Machine.execJge a b t s
  | .jg a b t => Sys2Proof.Machine.execJg a b t s
  | .jle a b t => Sys2Proof.Machine.execJle a b t s
  | .call lr t => Sys2Proof.Machine.execCall lr t s
  | .calls t => Sys2Proof.Machine.execCalls t s
  | .ret x y z => Sys2Proof.Machine.execRet x y z s
  | .rets => Sys2Proof.Machine.execRets s
  | .nap => Sys2Proof.Machine.execNap s
  | .raw h x y z => Sys2Proof.Machine.execRaw h x y z s
  | .mov src dst => Sys2Proof.Machine.execMov src dst s
  | .jmp t => Sys2Proof.Machine.execJmp t s

end Sys2Proof.Machine
end

