-- ==== Sys2Proof/Machine/Requests.lean ====
section
/-! DEFINITION. The host interface: the requests a block at rest takes (20_memory.md rule R75, 70_reset_and_hazards.md rules
R410, R411), and a decoder placed at a word. -/

namespace Sys2Proof.Machine

open Sys2Proof

/-- The host's oldest request, taken when no unit runs (20_memory.md rule R75, 70_reset_and_hazards.md rules R410, R411);
with none pending nothing changes. -/
def takeRequest (s : State) : State :=
  match s.requests with
  | [] => s
  | .setOutFmt f :: rest => { s with cfg := { s.cfg with outFmt := f }, requests := rest }
  | .setIvFmt f :: rest => { s with cfg := { s.cfg with ivFmt := f }, requests := rest }
  | .setTypedRaw b :: rest => { s with cfg := { s.cfg with decTypedRaw := b }, requests := rest }
  | .runEnc stmts :: rest => { s.newRun with requests := rest, task := .scan stmts stmts none }
  | .runDec a bytes :: rest =>
    { s.newRun with cfg := { s.newRun.cfg with arch := some a }, requests := rest, task := .ingest bytes }
  | .runIvs _ ops :: rest => { s.newRun with requests := rest, task := .expand ops 0 }

/-- A decoder about to classify the one word `w` of a stream on revision `a` (47_decoder.md rule R314): the word is
ingested, no word is classified yet. -/
def State.atWord (s : State) (a : Arch) (w : Word) : State :=
  { s with
    cfg := { s.cfg with arch := some a }
    words := [w]
    count := 1
    decoded := []
    targets := []
    task := .classify 0 }

end Sys2Proof.Machine
end

