-- ==== Sys2Proof/Machine/Encoder.lean ====
section
/-! DEFINITION. The stages of the encoder around the generation of an instruction: directive evaluation, the entry jump, the
fetch of a statement, address assignment, elision, label resolution (45_resolution.md) and emission (46_emission.md). -/

namespace Sys2Proof.Machine

open Sys2Proof

/-! ### Directives -/

/-- `NORMALIZE(n)` (45_resolution.md rule R261): the revision, and whether the value was coerced. -/
def normalizeArch (n : Int) : Option (Arch × Bool) :=
  if n = 5 then some (.rev5, false)
  else if n = 15 then some (.rev15, false)
  else if 6 ≤ n ∧ n ≤ 14 then some (.rev5, true)
  else if 15 < n then some (.rev15, true)
  else none

/-- The end of the directive scan (45_resolution.md rules R260, R261). `E3` has no location (60_exceptions.md rule R385); that
`W1` has none is a DESIGN CHOICE (notes/assumptions/8.md). -/
def setArch (all : List Stmt) (n : Int) (s : State) : State :=
  match normalizeArch n with
  | none => s.raise .E3 (.value n) .none
  | some (a, coerced) =>
    let s1 := if coerced then s.warn .W1 (.value n) .none else s
    { s1 with cfg := { s1.cfg with arch := some a }, task := .place all }

/-- One statement of `EVAL_DIRECTIVES`, or its end (45_resolution.md rule R260): `E2` and `E4` name the location of the second
directive, `E1` has nothing to name. -/
def scanStep (all todo : List Stmt) (archv : Option Int) (s : State) : State :=
  match todo with
  | .arch n loc :: rest =>
    match archv with
    | some _ => s.raise .E2 (.location (sourceLoc loc)) (sourceLoc loc)
    | none => { s with task := .scan all rest (some n) }
  | .start name loc :: rest =>
    match s.entry with
    | some _ => s.raise .E4 (.location (sourceLoc loc)) (sourceLoc loc)
    | none => { s with entry := some name, task := .scan all rest archv }
  | .insn .. :: rest => { s with task := .scan all rest archv }
  | .label .. :: rest => { s with task := .scan all rest archv }
  | [] =>
    match archv with
    | none => s.raise .E1 .none .none
    | some n => setArch all n s

/-! ### Generation -/

/-- The start of `GENERATE`, with `PLACE_ENTRY_JUMP` (45_resolution.md rules R262, R263): `jmp` to the entry label as the
first record. -/
def placeStep (all : List Stmt) (s : State) : State :=
  let s1 := { s with records := [] }
  match s1.entry with
  | none => { s1 with task := .generate all }
  | some l =>
    match s1.cfg.arch with
    | none => s1.raiseInternal
    | some a => settle (genJmp (.labelRef l .absolute) s1.cfg.params a) true none (.generate all) s1

/-- What a fetch finds: an instruction to run, or a state in which the fetch has done all there is to do. -/
inductive Fetched where
  | run (i : Instr)
  | done (s : State)

/-- The next statement of `GENERATE` (45_resolution.md rule R262): a directive is skipped, a label definition becomes a
record, an instruction is looked up by its mnemonic and operand count. The offending value of `E15` is these two
(notes/assumptions/8.md). -/
def fetchStatement (todo : List Stmt) (s : State) : Fetched :=
  match todo with
  | [] => .done { s with task := .startPass }
  | .insn m ops loc :: _ =>
    match Statements.ofParts m ops with
    | some i => .run i
    | none => .done (s.raise .E15 (.statement m ops.length) (sourceLoc loc))
  | .label name loc :: rest => .done { s with records := s.records ++ [.label name none loc], task := .generate rest }
  | .arch .. :: rest => .done { s with task := .generate rest }
  | .start .. :: rest => .done { s with task := .generate rest }

/-! ### Address assignment and elision -/

/-- The head of one turn of `RESOLVE` (45_resolution.md rules R264, R269, R270): the pass is counted, the cap checked,
`ADDR` set to 0. -/
def startPassStep (s : State) : State :=
  let s1 := { s with passes := s.passes + 1 }
  if s1.cfg.params.resolveCap < s1.passes then
    s1.raise .E12 (.text "address resolution did not converge") .none
  else { s1 with addr := 0, task := .assign 0 }

/-- One record of `ASSIGN`, or its end, which leaves `N` and an unspecified `ADDR` (45_resolution.md rule R264, 10_state.md
rule R37). -/
def assignStep (k : Nat) (s : State) : State :=
  match s.records[k]? with
  | none => { s with count := s.addr, addr := Config.freeAddr s.freeCount, freeCount := s.freeCount + 1, task := .elide }
  | some (.label name _ loc) =>
    { s with records := s.records.set k (.label name (some s.addr) loc), task := .assign (k + 1) }
  | some (.insn r) =>
    { s with
      records := s.records.set k (.insn { r with addr := some s.addr })
      addr := s.addr + 1
      task := .assign (k + 1) }

/-- The label records named `name`, each with its position and address, in record order (45_resolution.md rule R272). -/
def definitions (rs : List Record) (name : String) : List (Nat × Option Nat) :=
  rs.zipIdx.filterMap fun
    | (.label n addr _, i) => if n = name then some (i, addr) else none
    | (.insn _, _) => none

/-- The address of a definition; a definition without one is a state the model's invariants forbid. -/
def definitionAddr (d : Nat × Option Nat) : Except Err Nat :=
  match d.2 with
  | some t => .ok t
  | none => .error ⟨.E12, .text "internal invariant violated"⟩

/-- `LOOKUP(r, name, dir)` for a reference held by the record at position `k` (45_resolution.md rule R272). -/
def lookup (rs : List Record) (k : Nat) (name : String) : RefDir → Except Err Nat
  | .absolute =>
    match definitions rs name with
    | [] => .error ⟨.E9, .name name⟩
    | [d] => definitionAddr d
    | _ :: _ :: _ => .error ⟨.E10, .name name⟩
  | .backward =>
    match ((definitions rs name).filter fun d => d.1 < k).getLast? with
    | none => .error ⟨.E9, .name name⟩
    | some d => definitionAddr d
  | .forward =>
    match ((definitions rs name).filter fun d => k < d.1).head? with
    | none => .error ⟨.E9, .name name⟩
    | some d => definitionAddr d

/-- The entry-jump record (10_state.md rule R36). -/
def isEntryRecord : Record → Bool
  | .insn r => r.isEntryJump
  | .label .. => false

/-- The entry-jump test after a pass (45_resolution.md rules R265, R269): an entry jump whose target is address 1 is deleted
and address assignment restarts. -/
def elideStep (s : State) : State :=
  match s.records.findIdx? isEntryRecord with
  | none => { s with task := .resolve 0 }
  | some e =>
    match s.entry with
    | none => s.raiseInternal
    | some l =>
      match lookup s.records e l .absolute with
      | .error err => s.raise err.code err.info .none
      | .ok t =>
        if t = 1 then { s with records := s.records.eraseIdx e, task := .startPass }
        else { s with task := .resolve 0 }

/-! ### References -/

/-- The field a reference resolved to address `t` becomes in a slot (30_encoding.md rule R93, 45_resolution.md rule R273). -/
def resolvedField (a : Arch) (slot t : Nat) : Nat :=
  if slot = 2 then t else (t ||| Config.immTag a) &&& mask (Config.fw a)

/-- One field of the record at position `k` (45_resolution.md rule R273). -/
def resolveField (a : Arch) (rs : List Record) (k slot : Nat) : Field → Except Err Field
  | .value v => .ok (.value v)
  | .pending (.address t) => .ok (.value t)
  | .pending (.label name dir) =>
    match lookup rs k name dir with
    | .error e => .error e
    | .ok t => .ok (.value (resolvedField a slot t))

/-- The three slots of the record at position `k` in the order 0, 1, 2, up to the first fatal error (45_resolution.md rule
R273, 60_exceptions.md rule R387). -/
def resolveInsn (a : Arch) (rs : List Record) (k : Nat) (r : InsnRec) : InsnRec × Option Err :=
  match resolveField a rs k 0 r.f0 with
  | .error e => (r, some e)
  | .ok g0 =>
    match resolveField a rs k 1 r.f1 with
    | .error e => ({ r with f0 := g0 }, some e)
    | .ok g1 =>
      match resolveField a rs k 2 r.f2 with
      | .error e => ({ r with f0 := g0, f1 := g1 }, some e)
      | .ok g2 => ({ r with f0 := g0, f1 := g1, f2 := g2 }, none)

/-- One record of `RESOLVE_REFS`, or its end (45_resolution.md rule R273). DESIGN CHOICE: a fatal error of one of the record's
references has the location of its statement, also the `E12` of a label without an address, which the invariants forbid
(60_exceptions.md rules R385, R386; notes/assumptions/8.md, notes/assumptions/9.md). -/
def resolveStep (k : Nat) (s : State) : State :=
  match s.records[k]? with
  | none => { s with task := .emitHead }
  | some (.label ..) => { s with task := .resolve (k + 1) }
  | some (.insn r) =>
    match s.cfg.arch with
    | none => s.raiseInternal
    | some a =>
      match resolveInsn a s.records k r with
      | (r', none) => { s with records := s.records.set k (.insn r'), task := .resolve (k + 1) }
      | (r', some e) => { s with records := s.records.set k (.insn r') }.raise e.code e.info (sourceLoc r.loc)

/-! ### Emission -/

/-- `HEADER(type, size)` (46_emission.md rule R294). -/
def header (p : Params) (type : Byte) (size : Nat) : List Byte := [type, p.hdrVersion, 0, 0] ++ Decode.be32 size

/-- The start of `EMIT_UCODE`: the ceiling warning and the header (46_emission.md rules R293, R295). -/
def emitHeadStep (s : State) : State :=
  match s.cfg.arch with
  | none => s.raiseInternal
  | some a =>
    let s1 := match s.cfg.params.maxInsns a with
      | some m => if m < s.count then s.warn .W6 (.value s.count) .none else s
      | none => s
    let s2 := match s.cfg.outFmt with
      | .b43 => s1.emit (header s.cfg.params s.cfg.params.hdrTypeUcode (8 * s.count))
      | .rawBe32 => s1
      | .rawLe32 => s1
    { s2 with task := .emitWord 0 }

/-- The packed word of a resolved record with its packer warning (46_emission.md rules R290, R291, R293). -/
def emitInsn (a : Arch) (r : InsnRec) (s : State) : State :=
  match r.f0, r.f1, r.f2 with
  | .value v0, .value v1, .value v2 =>
    let x : Decode.WordFields := ⟨r.opcode, v0, v1, v2⟩
    let s1 := match Decode.truncated a x with
      | some f => s.warn .W8 (.value f) (sourceLoc r.loc)
      | none => s
    s1.emit (Decode.wordBytes s.cfg.outFmt (Decode.pack a x))
  | _, _, _ => s.raiseInternal

/-- One record of `EMIT_UCODE`, or its end (46_emission.md rule R293); label records emit nothing (45_resolution.md rule
R274). -/
def emitWordStep (k : Nat) (s : State) : State :=
  match s.records[k]? with
  | none => s.complete
  | some (.label ..) => { s with task := .emitWord (k + 1) }
  | some (.insn r) =>
    match s.cfg.arch with
    | none => s.raiseInternal
    | some a => emitInsn a r { s with task := .emitWord (k + 1) }

end Sys2Proof.Machine
end

