-- ==== Sys2Proof/Machine/Decoder.lean ====
section
/-! DEFINITION. The stages of the decoder around the delivery of a word: ingestion, the width check, the fetch of a word,
label naming and the statement stream (47_decoder.md rules R310 to R325). -/

namespace Sys2Proof.Machine

open Sys2Proof

/-- What is wrong with a stream's header in the native format (47_decoder.md rule R310). -/
def headerProblem (p : Params) (bs : List Byte) : Option String :=
  if bs.length < 8 then some "no header"
  else if bs.take 4 ≠ [p.hdrTypeUcode, p.hdrVersion, 0, 0] then some "bad header"
  else if Decode.readBe ((bs.drop 4).take 4) ≠ bs.length - 8 then some "size field"
  else none

/-- A stream's body, or what is wrong with the stream (47_decoder.md rule R310). -/
def streamBody (p : Params) (fmt : OutFmt) (bs : List Byte) : Except String (List Byte) :=
  let body := match fmt with
    | .b43 => bs.drop 8
    | .rawBe32 => bs
    | .rawLe32 => bs
  let problem := match fmt with
    | .b43 => headerProblem p bs
    | .rawBe32 => none
    | .rawLe32 => none
  match problem with
  | some t => .error t
  | none => if body.length % 8 = 0 then .ok body else .error "length not a multiple of 8"

/-- `INGEST(S)` (47_decoder.md rule R310). DESIGN CHOICE, unsafe for claims about that location: `E19` has none, since
a bad header or length has no word index (60_exceptions.md rule R385; notes/assumptions/8.md). -/
def ingestStep (bs : List Byte) (s : State) : State :=
  match streamBody s.cfg.params s.cfg.outFmt bs with
  | .error t => s.raise .E19 (.text t) .none
  | .ok body => { s with count := body.length / 8, task := .unpack body }

/-- The next word of the body, width-checked (47_decoder.md rules R311, R312, R314), or the end of the body. DESIGN CHOICE,
unsafe for claims about `DEC.WORDS` after `E17`: the word that is refused does not stand in `DEC.WORDS`, which 10_state.md
rule R40 leaves open (notes/assumptions/21.md). -/
def unpackStep (body : List Byte) (s : State) : State :=
  match s.cfg.arch with
  | none => s.raiseInternal
  | some a =>
    if body.length = 0 then { s with task := .classify 0 }
    else if body.length < 8 then s.raiseInternal
    else
      let w := Decode.wordOfBytes s.cfg.outFmt (body.take 8)
      if Decode.fitsArch a w then { s with words := s.words ++ [w], task := .unpack (body.drop 8) }
      else s.raise .E17 (.value s.words.length) (.word s.words.length)

/-- The word to classify next, decoded (47_decoder.md rules R314, R315), or the end of the words. -/
def fetchWord (k : Nat) (s : State) : Fetched :=
  match s.cfg.arch, s.words[k]? with
  | none, _ => .done s.raiseInternal
  | some _, none => .done { s with task := .nameLabels }
  | some a, some w =>
    match Decode.decode s.cfg.params s.cfg.decTypedRaw a w with
    | .ok i => .run i
    | .error _ => .done (s.raise .E17 (.value k) (.word k))

/-- The name of the synthetic entry label (47_decoder.md rule R323). -/
def entryName : String := "entry"

/-- The name of the label at address `t`: `L` and its place among the markers in increasing address order (47_decoder.md
rule R322). -/
def labelName (targets : List Nat) (t : Nat) : String := "L" ++ Nat.repr (targets.idxOf t)

/-- Labels are named and the stream begins (47_decoder.md rules R322, R323). -/
def nameLabelsStep (s : State) : State :=
  match s.cfg.arch with
  | none => s.raiseInternal
  | some a =>
    { s with stmts := [.arch (Config.archNumber a), .start entryName, .label entryName], task := .build 0 }

/-- A recorded target as the label reference it is delivered as (47_decoder.md rule R320). -/
def nameTarget (targets : List Nat) : Operand → Operand
  | .address t => .labelRef (labelName targets t) .absolute
  | op => op

/-- The statements of one address: its label, if it has one, then its instruction (47_decoder.md rules R324, R345). -/
def streamAt (targets : List Nat) (addr : Nat) (i : Instr) : List DecStmt :=
  (if addr ∈ targets then [.label (labelName targets addr)] else []) ++
    [.insn addr (Statements.mapTarget (nameTarget targets) i)]

/-- One address of the statement stream, or its end (47_decoder.md rule R324). -/
def buildStep (k : Nat) (s : State) : State :=
  match s.decoded[k]? with
  | none => s.complete
  | some (addr, i) => { s with stmts := s.stmts ++ streamAt s.targets addr i, task := .build (k + 1) }

end Sys2Proof.Machine
end

