-- ==== Sys2Proof/Machine/Serializer.lean ====
section
/-! DEFINITION. The initvals serializer (48_initvals.md): argument checks, expansion, the offset limit and the two list
formats. -/

namespace Sys2Proof.Machine

open Sys2Proof

/-- An argument of `n` bits (48_initvals.md rules R350, R359). -/
def checkWidth (n v : Nat) : Option Err := if 2 ^ n ≤ v then some ⟨.E20, .value v⟩ else none

/-- An SHM byte offset: 16 bits, then even (48_initvals.md rules R350, R359). -/
def checkShmOffset (off : Nat) : Option Err :=
  (checkWidth 16 off).or (if off % 2 = 1 then some ⟨.E21, .value off⟩ else none)

/-- `CHECK_ARGS(op)` in the column order of 48_initvals.md rule R350; an MMIO offset is left to rule R364. -/
def checkArgs : InitvalOp → Option Err
  | .mmio16 _ v => checkWidth 16 v
  | .mmio32 _ v => checkWidth 32 v
  | .phy reg v => (checkWidth 16 reg).or (checkWidth 16 v)
  | .radio reg v => (checkWidth 16 reg).or (checkWidth 16 v)
  | .shm16 routing off v => (checkWidth 8 routing).or ((checkShmOffset off).or (checkWidth 16 v))
  | .shm32 routing off v => (checkWidth 8 routing).or ((checkShmOffset off).or (checkWidth 32 v))
  | .tram off v => (checkWidth 32 off).or (checkWidth 32 v)

/-- `CTL(routing, off)` (48_initvals.md rule R356, a parameter by 93_implementation_defined.md I28): with the default layout
`(routing << 16) | (off >> 2)` (notes/assumptions/10.md). -/
def shmControlWord (c : ShmControl) (routing off : Nat) : Nat :=
  routing <<< c.routingShift ||| (off >>> c.offsetShift) <<< c.indexShift

/-- The expansion of `SHM16` (48_initvals.md rule R356). -/
def expandShm16 (m : Mmio) (c : ShmControl) (routing off v : Nat) : List Write :=
  [⟨m.shmControl, 4, shmControlWord c routing off⟩, ⟨if off % 4 = 0 then m.shmData else m.shmDataUnaligned, 2, v⟩]

/-- `EXPAND(op)` (48_initvals.md rules R353 to R358). -/
def expandOp (m : Mmio) (c : ShmControl) : InitvalOp → List Write
  | .mmio16 off v => [⟨off, 2, v⟩]
  | .mmio32 off v => [⟨off, 4, v⟩]
  | .phy reg v => [⟨m.phyControl, 2, reg⟩, ⟨m.phyData, 2, v⟩]
  | .radio reg v => [⟨m.radioControl, 2, reg⟩, ⟨m.radioDataLow, 2, v⟩]
  | .shm16 routing off v => expandShm16 m c routing off v
  | .shm32 routing off v =>
    if off % 4 = 0 then [⟨m.shmControl, 4, shmControlWord c routing off⟩, ⟨m.shmData, 4, v⟩]
    else expandShm16 m c routing off (v % 2 ^ 16) ++ expandShm16 m c routing (off + 2) (v / 2 ^ 16 % 2 ^ 16)
  | .tram off v => [⟨m.ramControl, 4, off⟩, ⟨m.ramData, 4, v⟩]

/-- One operation of `SERIALIZE`, or the end of the operations (48_initvals.md rule R351). -/
def expandStep (todo : List InitvalOp) (j : Nat) (s : State) : State :=
  match todo with
  | [] => { s with task := .checkOffset 0 }
  | op :: rest =>
    match checkArgs op with
    | some e => s.raise e.code e.info (.op j)
    | none => { s with writes := s.writes ++ expandOp s.cfg.params.mmio s.cfg.params.shmControl op, task := .expand rest (j + 1) }

/-- The offset limit on one raw write, or the end of the writes (48_initvals.md rule R364). -/
def checkOffsetStep (k : Nat) (s : State) : State :=
  match s.writes[k]? with
  | none => { s with task := .ivsHead }
  | some w =>
    if s.cfg.params.ivOffMax < w.off then s.raise .E11 (.value w.off) (.write k)
    else { s with task := .checkOffset (k + 1) }

/-- `LEGACY_RECORD(off, size, v)` (48_initvals.md rule R361). -/
def legacyRecord (w : Write) : List Byte :=
  if w.size = 4 then Decode.be16 (w.off ||| 0x8000) ++ Decode.be32 w.value else Decode.be16 w.off ++ Decode.be16 w.value

/-- `RAW_RECORD(off, size, v)` (48_initvals.md rule R362). -/
def rawRecord (w : Write) : List Byte := Decode.le16 w.off ++ Decode.le16 w.size ++ Decode.le32 w.value

/-- The terminator record of the raw format (48_initvals.md rule R363). -/
def rawTerminator : List Byte := [0xFF, 0xFF, 0, 0, 0, 0, 0, 0]

/-- The start of a list: the header of the legacy format (48_initvals.md rules R360, R363). -/
def ivsHeadStep (s : State) : State :=
  match s.cfg.ivFmt with
  | .legacy => { s.emit (header s.cfg.params s.cfg.params.hdrTypeIv s.writes.length) with task := .ivsRecord 0 }
  | .raw => { s with task := .ivsRecord 0 }

/-- One record of a list, or its end with the terminator of the raw format (48_initvals.md rules R360 to R363). -/
def ivsRecordStep (k : Nat) (s : State) : State :=
  match s.writes[k]? with
  | some w =>
    let bytes := match s.cfg.ivFmt with
      | .legacy => legacyRecord w
      | .raw => rawRecord w
    { s.emit bytes with task := .ivsRecord (k + 1) }
  | none =>
    match s.cfg.ivFmt with
    | .legacy => s.complete
    | .raw => (s.emit rawTerminator).complete

end Sys2Proof.Machine
end

