-- ==== Sys2Proof/Machine/Step.lean ====
section
/-! DEFINITION. The step: one statement, record, word, operation or write of the running unit's stage, or one host request
when no unit runs. -/

namespace Sys2Proof.Machine

open Sys2Proof

/-- A fetched instruction runs; any other fetch has already made its next state. -/
def runFetched (f : Fetched) (s : State) : Host.Outcome State Fault Refusal :=
  match f with
  | .run i => exec i s
  | .done s' => .next s'

/-- One step (70_reset_and_hazards.md rule R410). -/
def step (s : State) : Host.Outcome State Fault Refusal :=
  match s.task with
  | .idle => .next (takeRequest s)
  | .scan all todo archv => .next (scanStep all todo archv s)
  | .place all => .next (placeStep all s)
  | .generate todo => runFetched (fetchStatement todo s) s
  | .startPass => .next (startPassStep s)
  | .assign k => .next (assignStep k s)
  | .elide => .next (elideStep s)
  | .resolve k => .next (resolveStep k s)
  | .emitHead => .next (emitHeadStep s)
  | .emitWord k => .next (emitWordStep k s)
  | .ingest bs => .next (ingestStep bs s)
  | .unpack body => .next (unpackStep body s)
  | .classify k => runFetched (fetchWord k s) s
  | .nameLabels => .next (nameLabelsStep s)
  | .build k => .next (buildStep k s)
  | .expand todo j => .next (expandStep todo j s)
  | .checkOffset k => .next (checkOffsetStep k s)
  | .ivsHead => .next (ivsHeadStep s)
  | .ivsRecord k => .next (ivsRecordStep k s)

/-- The state in which the next step classifies the instruction whose bits are `w` in the numbering of
spec/opcode_table.json, as the only word of a stream (notes/assumptions/3.md). The revision is kept; `UNSET` becomes
Rev5. -/
def State.withFetchWord (s : State) (nbits w : Nat) : State :=
  let a := s.cfg.arch.getD .rev5
  s.atWord a (Decode.tableWord a (w % 2 ^ nbits))

end Sys2Proof.Machine
end

