-- ==== Sys2Proof/Safety.lean ====
section
/-! DEFINITION. What a claim means by a run that goes right: the consistency of a state, stage by stage, and the end of a
run. -/

namespace Sys2Proof.Safety

open Sys2Proof Sys2Proof.Machine

/-- An `Insn` record. -/
def isInsn : Record → Bool
  | .insn _ => true
  | .label .. => false

/-- The number of `Insn` records. -/
def insnCount (rs : List Record) : Nat := rs.countP isInsn

/-- The address a record holds. -/
def recordAddr : Record → Option Nat
  | .insn r => r.addr
  | .label _ addr _ => addr

/-- The first `k` records hold the addresses of 45_resolution.md rule R264: each the number of instructions before it. -/
def Addressed (rs : List Record) (k : Nat) : Prop :=
  ∀ j r, j < k → rs[j]? = some r → recordAddr r = some (insnCount (rs.take j))

/-- A field that waits for no address. -/
def isValue : Field → Bool
  | .value _ => true
  | .pending _ => false

/-- A record with no `PENDING` field. -/
def isResolved : Record → Bool
  | .insn r => isValue r.f0 && isValue r.f1 && isValue r.f2
  | .label .. => true

/-- The first `k` records wait for no address (45_resolution.md rule R273). -/
def Resolved (rs : List Record) (k : Nat) : Prop := ∀ r ∈ rs.take k, isResolved r = true

/-- The bytes before the first word of a microcode stream (20_memory.md rule R67). -/
def headerLength : OutFmt → Nat
  | .b43 => 8
  | .rawBe32 => 0
  | .rawLe32 => 0

/-- The bytes of one raw write in a list format (48_initvals.md rules R361, R362). -/
def recordLength : IvFmt → Write → Nat
  | .legacy, w => if w.size = 2 then 4 else 6
  | .raw, _ => 8

/-- The bytes before the first record of an initvals list (48_initvals.md rules R360, R363). -/
def listHeaderLength : IvFmt → Nat
  | .legacy => 8
  | .raw => 0

/-- The addresses of the instruction statements of a stream, in stream order (47_decoder.md rule R345). -/
def streamAddresses (ss : List DecStmt) : List Nat :=
  ss.filterMap fun
    | .insn addr _ => some addr
    | .arch _ => none
    | .start _ => none
    | .label _ => none

/-- No record is an entry jump. -/
def NoEntry (rs : List Record) : Prop := ∀ r ∈ rs, isEntryRecord r = false

/-- At most the first record is an entry jump (45_resolution.md rule R263), and only when there is an entry label. -/
def EntryFirst (s : State) : Prop := NoEntry s.records.tail ∧ (s.entry = none → NoEntry s.records)

/-- The passes counted when a pass is under way or just done (45_resolution.md rules R269, R270): a second one only without
an entry jump. -/
def PassCount (s : State) : Prop := s.passes = 1 ∨ (s.passes = 2 ∧ NoEntry s.records)

/-- Every ingested word passes the width check (47_decoder.md rule R312). -/
def WordsFit (s : State) : Prop := ∃ a, s.cfg.arch = some a ∧ ∀ w ∈ s.words, Decode.fitsArch a w = true

/-- What holds of the working state at a stage. -/
def StageConsistent (s : State) : Prop :=
  match s.task with
  | .idle => True
  | .scan .. => s.out = [] ∧ s.passes = 0
  | .place _ => s.out = [] ∧ s.passes = 0 ∧ s.cfg.arch.isSome
  | .generate _ => s.out = [] ∧ s.passes = 0 ∧ s.cfg.arch.isSome ∧ EntryFirst s
  | .startPass =>
    s.out = [] ∧ s.cfg.arch.isSome ∧ EntryFirst s ∧ (s.passes = 0 ∨ (s.passes = 1 ∧ NoEntry s.records))
  | .assign k =>
    s.out = [] ∧ s.cfg.arch.isSome ∧ EntryFirst s ∧ PassCount s ∧
      k ≤ s.records.length ∧ s.addr = insnCount (s.records.take k) ∧ Addressed s.records k
  | .elide =>
    s.out = [] ∧ s.cfg.arch.isSome ∧ EntryFirst s ∧ PassCount s ∧
      Addressed s.records s.records.length ∧ s.count = insnCount s.records
  | .resolve k =>
    s.out = [] ∧ s.cfg.arch.isSome ∧ k ≤ s.records.length ∧
      Addressed s.records s.records.length ∧ s.count = insnCount s.records ∧ Resolved s.records k
  | .emitHead =>
    s.out = [] ∧ s.cfg.arch.isSome ∧
      Addressed s.records s.records.length ∧ s.count = insnCount s.records ∧ Resolved s.records s.records.length
  | .emitWord k =>
    s.out.length = headerLength s.cfg.outFmt + 8 * insnCount (s.records.take k) ∧ s.cfg.arch.isSome ∧
      k ≤ s.records.length ∧
      Addressed s.records s.records.length ∧ s.count = insnCount s.records ∧ Resolved s.records s.records.length
  | .ingest _ => s.cfg.arch.isSome ∧ s.words = [] ∧ s.decoded = [] ∧ s.targets = []
  | .unpack body =>
    WordsFit s ∧ body.length + 8 * s.words.length = 8 * s.count ∧ s.decoded = [] ∧ s.targets = []
  | .classify k =>
    WordsFit s ∧ s.words.length = s.count ∧ k = s.decoded.length ∧ k ≤ s.count ∧ ∀ t ∈ s.targets, t < s.count
  | .nameLabels => s.cfg.arch.isSome ∧ s.decoded.length = s.count ∧ ∀ t ∈ s.targets, t < s.count
  | .build k =>
    s.decoded.length = s.count ∧ (∀ t ∈ s.targets, t < s.count) ∧ k ≤ s.count ∧ streamAddresses s.stmts = List.range k
  | .expand .. => s.out = []
  | .checkOffset k => s.out = [] ∧ ∀ w ∈ s.writes.take k, w.off ≤ s.cfg.params.ivOffMax
  | .ivsHead => s.out = [] ∧ ∀ w ∈ s.writes, w.off ≤ s.cfg.params.ivOffMax
  | .ivsRecord k =>
    (∀ w ∈ s.writes, w.off ≤ s.cfg.params.ivOffMax) ∧ k ≤ s.writes.length ∧
      s.out.length = listHeaderLength s.cfg.ivFmt + ((s.writes.take k).map (recordLength s.cfg.ivFmt)).sum

/-- The consistency of a state: what the rules promise of every state of a run, whatever the run's input. -/
structure Consistent (s : State) : Prop where
  /-- A valid output comes with no fatal error (10_state.md rule R44, 20_memory.md rule R75). -/
  valid : s.outValid = true → s.fatal = none
  /-- A unit that still runs has met no fatal error and completed nothing (60_exceptions.md rule R381). -/
  running : s.task ≠ .idle → s.fatal = none ∧ s.outValid = false
  /-- The target markers are in increasing order, each address once (47_decoder.md rules R321, R322). -/
  targets : s.targets.Pairwise (· < ·)
  /-- The classified statements stand at the addresses 0, 1, … (47_decoder.md rules R324, R345). -/
  decoded : s.decoded.map Prod.fst = List.range s.decoded.length
  /-- Every raw write has 2 or 4 bytes (10_state.md rule R41, 48_initvals.md rule R351). -/
  sizes : ∀ w ∈ s.writes, w.size = 2 ∨ w.size = 4
  /-- What holds at the stage of the running unit. -/
  stage : StageConsistent s

/-- A run that ended without a fatal error. -/
def Completed (s : State) : Prop := s.task = .idle ∧ s.outValid = true ∧ s.fatal = none

/-- A step that neither faults nor is refused. -/
def StepGoesOn (s : State) : Prop := ∃ t, step s = .next t

/-! ### What the rules give an instruction -/

/-- The field of a record an operand becomes: a label reference or an address is `PENDING` (30_encoding.md rules R87, R93),
any other operand its number (rules R88 to R94). -/
def recordField (p : Params) (a : Arch) : Operand → Field
  | .labelRef name dir => .pending (.label name dir)
  | .address t => .pending (.address t)
  | op => .value (Decode.operandField p a op)

/-- The warnings an accepted operand draws, in their order (30_encoding.md rules R91, R92). -/
def operandWarnings (a : Arch) : Operand → List (WCode × Info)
  | .direct o => if 2 ^ Config.dirW a ≤ o then [(.W2, .value o)] else []
  | .indirect o r =>
    (if a = .rev5 ∧ r = 6 then [(.W3, .value r)] else []) ++
      (if 2 ^ Config.indOffW ≤ o then [(.W2, .value o)] else [])
  | _ => []

/-- The warnings of a list of operands, slot by slot. -/
def slotWarnings (a : Arch) (ops : List Operand) : List (WCode × Info) := ops.flatMap (operandWarnings a)

/-- Warnings at a location, as `STATUS.WARNINGS` holds them. -/
def logged (loc : Loc) (ws : List (WCode × Info)) : List Warning := ws.map fun w => ⟨w.1, w.2, loc⟩

/-- The `W4` of a return right after a jump, with its location as what it names (45_resolution.md rule R267). -/
def returnWarning (rs : List Record) (mnem : String) (loc : Loc) : List (WCode × Info) :=
  if warnsReturnAfterJump rs mnem then [(.W4, .location loc)] else []

/-- The state after the statement `st` was generated as the one record `x`, with the warnings `ws` before it: the record and
the warnings are appended, the encoder goes on to `rest`, nothing else changes. -/
def generated (s : State) (st : Stmt) (rest : List Stmt) (ws : List (WCode × Info)) (x : Emitted) : State :=
  { s with
    warnings := s.warnings ++ logged (sourceLoc (stmtLoc st)) (ws ++ returnWarning s.records x.mnem (sourceLoc (stmtLoc st)))
    records := s.records ++ [x.record false (stmtLoc st)]
    task := .generate rest }

/-- The state after word `k` was delivered as `i` with the warnings `ws`: nothing else changes. -/
def delivered (s : State) (k : Nat) (i : Instr) (ws : List (WCode × Info)) : State :=
  { s with
    warnings := s.warnings ++ logged (.word k) ws
    decoded := s.decoded ++ [(k, i)]
    task := .classify (k + 1) }

/-- The `W7` warnings of fixed sub-fields that do not hold their constants, in slot order (43_call_ret_nap.md rule R231). -/
def constWarnings (mnem : String) (x : Decode.WordFields) (cs : List (Nat × Nat)) : List (WCode × Info) :=
  cs.flatMap fun c => if slotOf x c.1 = c.2 then [] else [(.W7, .subfield mnem c.1 (slotOf x c.1))]

/-- The `W7` warnings of link-register slots that hold no link register (43_call_ret_nap.md rule R230). -/
def lrWarnings (p : Params) (x : Decode.WordFields) (slots : List Nat) : List (WCode × Info) :=
  slots.flatMap fun i => if slotOf x i ∈ p.lrFields then [] else [(.W7, .value (slotOf x i))]

/-- No operand is a label reference: every reference of the instruction is an address already. -/
def resolvedInstr (i : Instr) : Bool :=
  (Statements.operandsOf i).all fun
    | .labelRef .. => false
    | _ => true

/-- The word a record is packed into once its addresses are put in their slots (45_resolution.md rule R273, 46_emission.md
rule R290); `none` for a record that waits for a label. -/
def recordWord (a : Arch) : Record → Option Word
  | .label .. => none
  | .insn r =>
    let number : Field → Option Nat
      | .value v => some v
      | .pending (.address t) => some t
      | .pending (.label ..) => none
    match number r.f0, number r.f1, number r.f2 with
    | some v0, some v1, some v2 => some (Decode.pack a ⟨r.opcode, v0, v1, v2⟩)
    | _, _, _ => none

end Sys2Proof.Safety
end

