-- ==== Sys2Proof/Certificates/Slice0/Obligations.lean ====
section
/-! DEFINITION. The statements for the provers. Each docstring names the rule of the spec it rests on; where a clause is the
model's own choice it says so. -/

open Sys2Proof Sys2Proof.Machine Sys2Proof.Safety

namespace Sys2Proof.Claims

/-- A STD3 mnemonic is generated by 40_alu.md rule R130. -/
def Std3Generation (mk : Operand → Operand → Operand → Instr) (m : String) (opc : Opcodes → Opcode) : Prop :=
  ∀ (s : State) (st : Stmt) (rest : List Stmt) (a : Arch) (x y d : Operand),
    s.task = .generate (st :: rest) → s.cfg.arch = some a → WellFormed.okStd3 s.cfg.params a x y d = true →
    exec (mk x y d) s = .next (generated s st rest (slotWarnings a [x, y, d])
      ⟨m, opc s.cfg.params.opcodes, recordField s.cfg.params a x, recordField s.cfg.params a y,
        recordField s.cfg.params a d, false⟩)

/-- A TKIP2 mnemonic is generated by 40_alu.md rule R151. -/
def Tkip2Generation (mk : Operand → Operand → Instr) (m : String) (opc : Opcodes → Opcode) : Prop :=
  ∀ (s : State) (st : Stmt) (rest : List Stmt) (a : Arch) (x d : Operand),
    s.task = .generate (st :: rest) → s.cfg.arch = some a → WellFormed.okIn s.cfg.params a x = true →
    WellFormed.okOut s.cfg.params a d = true →
    exec (mk x d) s = .next (generated s st rest (slotWarnings a [x, d])
      ⟨m, opc s.cfg.params.opcodes, recordField s.cfg.params a x, .value s.cfg.params.constants.tkip1,
        recordField s.cfg.params a d, false⟩)

/-- An operand whose value is the natural `n`: a bare number or an immediate (41_extended.md rule R170). -/
def Numeral (op : Operand) (n : Nat) : Prop := op = .number n ∨ ∃ v : Imm, op = .imm v ∧ v.toInt = n

/-- A bit-field mnemonic of family `fam` with slot 2 an operand is generated by 41_extended.md rule R172. -/
def BitFieldGeneration (mk : Operand → Operand → Operand → Operand → Operand → Instr) (m : String)
    (fam : Opcodes → Family) : Prop :=
  ∀ (s : State) (st : Stmt) (rest : List Stmt) (a : Arch) (mo so : Operand) (mv sv : Nat) (x y d : Operand),
    s.task = .generate (st :: rest) → s.cfg.arch = some a → Numeral mo mv → mv ≤ 15 → Numeral so sv → sv ≤ 15 →
    WellFormed.okStd3 s.cfg.params a x y d = true →
    exec (mk mo so x y d) s = .next (generated s st rest (slotWarnings a [x, y, d])
      ⟨m, BitVec.ofNat 12 ((fam s.cfg.params.opcodes).toNat * 256 + mv * 16 + sv), recordField s.cfg.params a x,
        recordField s.cfg.params a y, recordField s.cfg.params a d, false⟩)

/-- A bit-field jump of family `fam` is generated by 41_extended.md rule R172. -/
def BitFieldJumpGeneration (mk : Operand → Operand → Operand → Operand → Operand → Instr) (m : String)
    (fam : Opcodes → Family) : Prop :=
  ∀ (s : State) (st : Stmt) (rest : List Stmt) (a : Arch) (mo so : Operand) (mv sv : Nat) (x y t : Operand),
    s.task = .generate (st :: rest) → s.cfg.arch = some a → Numeral mo mv → mv ≤ 15 → Numeral so sv → sv ≤ 15 →
    WellFormed.okCjmp s.cfg.params a x y t = true →
    exec (mk mo so x y t) s = .next (generated s st rest (slotWarnings a [x, y])
      ⟨m, BitVec.ofNat 12 ((fam s.cfg.params.opcodes).toNat * 256 + mv * 16 + sv), recordField s.cfg.params a x,
        recordField s.cfg.params a y, recordField s.cfg.params a t, true⟩)

/-- An external-condition jump of family `fam` is generated by 41_extended.md rule R173. -/
def ConditionGeneration (mk : Operand → Operand → Operand → Operand → Instr) (m : String)
    (fam : Opcodes → Family) : Prop :=
  ∀ (s : State) (st : Stmt) (rest : List Stmt) (a : Arch) (co : Operand) (c : Nat) (x y t : Operand),
    s.task = .generate (st :: rest) → s.cfg.arch = some a → Numeral co c → c ≤ 255 →
    WellFormed.okCjmp s.cfg.params a x y t = true →
    exec (mk co x y t) s = .next (generated s st rest (slotWarnings a [x, y])
      ⟨m, BitVec.ofNat 12 ((fam s.cfg.params.opcodes).toNat * 256 + c), recordField s.cfg.params a x,
        recordField s.cfg.params a y, recordField s.cfg.params a t, true⟩)

/-- A conditional jump is generated natively by 42_jumps.md rule R190, for inputs that meet `native`. -/
def CjmpGeneration (native : Arch → Operand → Operand → Prop) (mk : Operand → Operand → Operand → Instr) (m : String)
    (opc : Opcodes → Opcode) : Prop :=
  ∀ (s : State) (st : Stmt) (rest : List Stmt) (a : Arch) (x y t : Operand),
    s.task = .generate (st :: rest) → s.cfg.arch = some a → native a x y →
    WellFormed.okCjmp s.cfg.params a x y t = true →
    exec (mk x y t) s = .next (generated s st rest (slotWarnings a [x, y])
      ⟨m, opc s.cfg.params.opcodes, recordField s.cfg.params a x, recordField s.cfg.params a y,
        recordField s.cfg.params a t, true⟩)

/-- The native form of `jand` and `jnand` (42_jumps.md rule R191): a native immediate, or no immediate at all. -/
def NativeMask (a : Arch) (x y : Operand) : Prop :=
  Flags.isValidImmOperand a x = true ∨ Flags.isValidImmOperand a y = true ∨
    (Flags.isImm x = false ∧ Flags.isImm y = false)

/-- The wide immediate whose low 16 bits are `w` ones from bit `sh` up, sign-extended so that it is a possible immediate. -/
def maskImm (w sh : Nat) : Imm := (BitVec.ofNat 16 ((2 ^ w - 1) * 2 ^ sh)).signExtend 32

/-- A `jand`/`jnand` with a wide contiguous mask is generated as the bit-field jump of family `fam` (42_jumps.md rule R191),
on either side of the other operand. -/
def MaskJumpGeneration (mk : Operand → Operand → Operand → Instr) (m : String)
    (fam : Opcodes → Family) : Prop :=
  ∀ (s : State) (st : Stmt) (rest : List Stmt) (a : Arch) (w sh : Nat) (x t : Operand),
    s.task = .generate (st :: rest) → s.cfg.arch = some a → 1 ≤ w → w + sh ≤ 16 →
    Flags.isValidImmediate a (maskImm w sh) = false → Flags.isImm x = false →
    WellFormed.okIn s.cfg.params a x = true → WellFormed.okTarget a t = true →
    let next := Host.Outcome.next (generated s st rest ((.W5, .value (maskImm w sh).toInt) :: slotWarnings a [x])
      ⟨m, BitVec.ofNat 12 ((fam s.cfg.params.opcodes).toNat * 256 + (w - 1) * 16 + sh), recordField s.cfg.params a x,
        .value (Config.immTag a), recordField s.cfg.params a t, true⟩)
    exec (mk x (.imm (maskImm w sh)) t) s = next ∧ exec (mk (.imm (maskImm w sh)) x t) s = next

/-- A form without fixed sub-fields or a target is delivered as it is (47_decoder.md rules R316, R317, R332). -/
def PlainDelivery (i : Instr) : Prop :=
  ∀ (s : State) (k : Nat) (a : Arch) (w : Word),
    s.task = .classify k → s.cfg.arch = some a → s.words[k]? = some w →
    exec i s = .next (delivered s k i [])

/-- A jump-class form without fixed sub-fields is delivered with its target recorded, or refused by `E18` when the target is
out of range (47_decoder.md rule R320). -/
def JumpDelivery (mk : Operand → Instr) : Prop :=
  ∀ (s : State) (k : Nat) (a : Arch) (w : Word) (t : Nat),
    s.task = .classify k → s.cfg.arch = some a → s.words[k]? = some w →
    (t < s.count →
      exec (mk (.address t)) s = .next { delivered s k (mk (.address t)) [] with targets := insertTarget t s.targets }) ∧
    (s.count ≤ t → exec (mk (.address t)) s = .next (s.raise .E18 (.value t) (.word k)))

/-- A form whose slots in `cs` are fixed is delivered with one `W7` for each slot that does not hold its constant
(43_call_ret_nap.md rule R231). -/
def CheckedDelivery (i : Instr) (m : String) (cs : Params → List (Nat × Nat)) : Prop :=
  ∀ (s : State) (k : Nat) (a : Arch) (w : Word),
    s.task = .classify k → s.cfg.arch = some a → s.words[k]? = some w →
    exec i s = .next (delivered s k i (constWarnings m (Decode.unpack a w) (cs s.cfg.params)))

/-- The forms with two input operands in slots 0 and 1, by those and slot 2. -/
def pairedForms (m n c : Operand) (h : Nat) : List (Operand → Operand → Operand → Instr) :=
  [.mul, .add, .addDot, .addc, .addcDot, .sub, .subDot, .subc, .subcDot, .sra, .or, .and, .xor, .sr, .sl, .rl, .rr, .nand] ++
  [.jand, .jnand, .js, .jns, .je, .jne, .jls, .jges, .jgs, .jles, .jdn, .jdpz, .jdp, .jdnz, .jl, .jge, .jg, .jle] ++
  [.srx m n, .orx m n, .jzx m n, .jnzx m n, .jext c, .jnext c, .raw h]

/-- The input operands of slots 0 and 1 of an instruction are `x` and `y`. -/
def HasInputs (i : Instr) (x y : Operand) : Prop := ∃ m n c h z, ∃ mk ∈ pairedForms m n c h, i = mk x y z

/-- Two input operands the encoder does not take together (30_encoding.md rule R82): two Memory or two SPR operands. -/
def BreakCooccurrence (x y : Operand) : Prop :=
  (Flags.isMemory x = true ∧ Flags.isMemory y = true) ∨ (Flags.isSpr x = true ∧ Flags.isSpr y = true)

/-- The jump-class forms, by their target (45_resolution.md rule R266). -/
def targetForms (m n c x y lr : Operand) : List (Operand → Instr) :=
  [.jzx m n x y, .jnzx m n x y, .jext c x y, .jnext c x y] ++
  [.jand x y, .jnand x y, .js x y, .jns x y, .je x y, .jne x y, .jls x y, .jges x y, .jgs x y, .jles x y, .jdn x y,
    .jdpz x y, .jdp x y, .jdnz x y, .jl x y, .jge x y, .jg x y, .jle x y] ++
  [.call lr, .calls, .jmp]

/-- The field of slot 0, 1 or 2 of a record. -/
def recordSlot (r : InsnRec) : Nat → Field
  | 0 => r.f0
  | 1 => r.f1
  | _ => r.f2

/-- The argument checks of an initvals operation in the column order of 48_initvals.md rules R350, R359: for each, whether
it is met, and the code and the argument it draws when it is not. -/
def argumentChecks : InitvalOp → List (Bool × ECode × Nat)
  | .mmio16 _ v => [(v < 2 ^ 16, .E20, v)]
  | .mmio32 _ v => [(v < 2 ^ 32, .E20, v)]
  | .phy reg v => [(reg < 2 ^ 16, .E20, reg), (v < 2 ^ 16, .E20, v)]
  | .radio reg v => [(reg < 2 ^ 16, .E20, reg), (v < 2 ^ 16, .E20, v)]
  | .shm16 routing off v =>
    [(routing < 2 ^ 8, .E20, routing), (off < 2 ^ 16, .E20, off), (off % 2 = 0, .E21, off), (v < 2 ^ 16, .E20, v)]
  | .shm32 routing off v =>
    [(routing < 2 ^ 8, .E20, routing), (off < 2 ^ 16, .E20, off), (off % 2 = 0, .E21, off), (v < 2 ^ 32, .E20, v)]
  | .tram off v => [(off < 2 ^ 32, .E20, off), (v < 2 ^ 32, .E20, v)]

/-- The opcodes of the forms with a fixed sub-field: `nap`, `call`, `calls`, `rets` and the TKIP2 forms (30_encoding.md rule
R100, 43_call_ret_nap.md rule R231). -/
def fixedSlotOpcodes : List Nat := [0x001, 0x002, 0x004, 0x005, 0x1E0, 0x1E1, 0x1E2, 0x1E3]

/-- The fields of a state that no instruction changes. -/
def SameFrame (s t : State) : Prop :=
  t.cfg = s.cfg ∧ t.entry = s.entry ∧ t.passes = s.passes ∧ t.addr = s.addr ∧ t.count = s.count ∧ t.words = s.words ∧
    t.writes = s.writes ∧ t.requests = s.requests

/-- Two states of one run, apart from what no rule of a run reads: the free values used, `ADDR` outside an
address-assignment pass, what `OUT` holds after a fatal error, and the host's later requests. -/
def SameRun (s t : State) : Prop :=
  { s with addr := 0, freeCount := 0, requests := [], out := [], stmts := [] } =
      { t with addr := 0, freeCount := 0, requests := [], out := [], stmts := [] } ∧
    (s.fatal = none → s.out = t.out ∧ s.stmts = t.stmts) ∧ (∀ k, s.task = .assign k → s.addr = t.addr)

/-- The decoder with the default parameters. -/
def decodeDefault (typed : Bool) (a : Arch) (w : Word) : Except Decode.Reject Instr :=
  Decode.decode Params.default typed a w

/-- The payload width, the smallest and the largest native immediate (30_encoding.md rule R95). -/
def immRange : Arch → Int × Int
  | .rev5 => (-512, 511)
  | .rev15 => (-1024, 1023)

end Sys2Proof.Claims

open Sys2Proof.Claims

/-! ### Reset, the host interface, status -/

/-- 10_state.md rule R50: the values at reset, and those a run starts from. The values of `addr`, `count`, `task`,
`requests` and `freeCount` are not stated: rule R50 gives them none. -/
def Obligations.ResetAndRunStartValues : Prop :=
  (State.reset.cfg.arch = none ∧ State.reset.cfg.outFmt = .b43 ∧ State.reset.cfg.ivFmt = .legacy ∧
    State.reset.cfg.decTypedRaw = false ∧ State.reset.records = [] ∧ State.reset.entry = none ∧ State.reset.passes = 0 ∧
    State.reset.words = [] ∧ State.reset.stmts = [] ∧ State.reset.targets = [] ∧ State.reset.writes = [] ∧
    State.reset.fatal = none ∧ State.reset.warnings = [] ∧ State.reset.out = [] ∧ State.reset.outValid = false) ∧
  ∀ s : State, s.newRun.cfg = { s.cfg with arch := none } ∧ s.newRun.records = [] ∧ s.newRun.entry = none ∧
    s.newRun.passes = 0 ∧ s.newRun.words = [] ∧ s.newRun.stmts = [] ∧ s.newRun.targets = [] ∧ s.newRun.writes = [] ∧
    s.newRun.fatal = none ∧ s.newRun.warnings = [] ∧ s.newRun.out = [] ∧ s.newRun.outValid = false

/-- 70_reset_and_hazards.md rule R410, 20_memory.md rule R75: a block at rest that is asked for a run starts it from the
values of 10_state.md rule R50, whatever an earlier run left; a decoder run sets `CFG.ARCH` to its input. -/
def Obligations.RequestedRunSeesNothingOfAnEarlierRun : Prop :=
  ∀ (s : State) (rest : List Request), s.task = .idle →
    (∀ stmts, s.requests = .runEnc stmts :: rest →
      step s = .next { s.newRun with requests := rest, task := .scan stmts stmts none }) ∧
    (∀ a bytes, s.requests = .runDec a bytes :: rest →
      step s = .next { s.newRun with cfg := { s.cfg with arch := some a }, requests := rest, task := .ingest bytes }) ∧
    (∀ name ops, s.requests = .runIvs name ops :: rest →
      step s = .next { s.newRun with requests := rest, task := .expand ops 0 })

/-- 60_exceptions.md rule R381: taking a fatal error writes `STATUS.FATAL` and clears `OUT_VALID`, and no further rule of
the run takes effect: the block is at rest, and a step changes nothing until the host asks for something. The warnings and
the records built before it stay. What `OUT` holds is unspecified and not stated. -/
def Obligations.FatalErrorStopsTheUnit : Prop :=
  ∀ (s : State) (c : ECode) (i : Info) (l : Loc),
    (s.raise c i l).fatal = some ⟨c, i, l⟩ ∧ (s.raise c i l).outValid = false ∧
    (s.raise c i l).warnings = s.warnings ∧ (s.raise c i l).records = s.records ∧ (s.raise c i l).cfg = s.cfg ∧
    (s.requests = [] → step (s.raise c i l) = .next (s.raise c i l))

/-! ### Predicates and operand fields -/

/-- 30_encoding.md rules R95, R96: the native immediates are exactly the 1024 values −512 … 511 on Rev5 and the 2048 values
−1024 … 1023 on Rev15, with a payload of `IMM_W` bits and its sign at bit `IMM_W − 1`; the possible immediates are exactly
−32768 … 32767, the words whose low 16 bits, sign-extended, give them back. -/
def Obligations.ImmediatePredicatesAreTheStatedRanges : Prop :=
  ∀ (a : Arch) (v : Imm),
    (Flags.isValidImmediate a v = true ↔ (immRange a).1 ≤ v.toInt ∧ v.toInt ≤ (immRange a).2) ∧
    (Flags.isValidImmediate a v = true → Flags.sext (Config.immW a) (v.setWidth (Config.immW a)).toNat = v) ∧
    (Flags.isPossibleImmediate v = true ↔ -32768 ≤ v.toInt ∧ v.toInt ≤ 32767) ∧
    (Flags.isPossibleImmediate v = true ↔ (v.setWidth 16).signExtend 32 = v)

/-- 30_encoding.md rule R84 with the default layout: the class of a field by its value, in the ranges of the rule's table,
and the payload of each class. -/
def Obligations.FieldClassesPartitionTheValues : Prop :=
  ∀ (a : Arch) (f : Nat), f < 2 ^ Config.fw a →
    Decode.decOp Params.default a f =
      match a with
      | .rev5 =>
        if 0xC00 ≤ f then .imm (Flags.sext 10 (f % 1024))
        else if 0xBC0 ≤ f then .reg .gpr (f - 0xBC0)
        else if 0xA00 ≤ f then .indirect (f % 64) ((f - 0xA00) / 64)
        else if 0x800 ≤ f then .reg .spr (f - 0x800)
        else .direct f
      | .rev15 =>
        if 0x1800 ≤ f then .imm (Flags.sext 11 (f % 2048))
        else if 0x1780 ≤ f then .reg .gpr (f - 0x1780)
        else if 0x1400 ≤ f then (if f / 64 % 2 = 1 then .raw f else .indirect (f % 64) ((f - 0x1400) / 128))
        else if 0x1000 ≤ f then .reg .spr (f - 0x1000)
        else .direct f

/-- 60_exceptions.md rule R388 and 30_encoding.md rules R91, R92: within one memory operand the OFFR range comes first, then
`W3`, then the truncation with `W2`. Here on Rev5, for every offset. -/
def Obligations.MemoryOperandChecksInOrder : Prop :=
  ∀ o : Nat,
    (encIn Params.default .rev5 (.indirect o 7)).events = [] ∧
    (encIn Params.default .rev5 (.indirect o 7)).result = .error ⟨.E7, .value 7⟩ ∧
    (64 ≤ o → (encIn Params.default .rev5 (.indirect o 6)).events = [.warn .W3 (.value 6), .warn .W2 (.value o)] ∧
      (encIn Params.default .rev5 (.indirect o 6)).result = .ok (.value (0xB80 + o % 64))) ∧
    (2048 ≤ o → (encIn Params.default .rev5 (.direct o)).events = [.warn .W2 (.value o)] ∧
      (encIn Params.default .rev5 (.direct o)).result = .ok (.value (o % 2048)))

/-! ### Words -/

/-- 47_decoder.md rule R313 and 46_emission.md rule R290: unpacking a word, whatever its bits, takes the opcode and the
three fields from their places; a packed word is the sum of its opcode and its three fields, each cut to its width, at
those places, with none of the bits above `WORD_USED` set, and unpacking gives them back. -/
def Obligations.PackedWordHoldsItsFields : Prop :=
  (∀ w : Word,
    Decode.unpack .rev5 w = ⟨w.extractLsb' 36 12, (w.extractLsb' 24 12).toNat, (w.extractLsb' 12 12).toNat,
      (w.extractLsb' 0 12).toNat⟩ ∧
    Decode.unpack .rev15 w = ⟨w.extractLsb' 39 12, (w.extractLsb' 26 13).toNat, (w.extractLsb' 13 13).toNat,
      (w.extractLsb' 0 13).toNat⟩) ∧
  ∀ (a : Arch) (opc : Opcode) (f0 f1 f2 : Nat),
    let w := Decode.pack a ⟨opc, f0, f1, f2⟩
    w.toNat = (match a with
      | .rev5 => opc.toNat * 2 ^ 36 + f0 % 4096 * 2 ^ 24 + f1 % 4096 * 2 ^ 12 + f2 % 4096
      | .rev15 => opc.toNat * 2 ^ 39 + f0 % 8192 * 2 ^ 26 + f1 % 8192 * 2 ^ 13 + f2 % 8192) ∧
    Decode.unpack a w = ⟨opc, f0 % 2 ^ Config.fw a, f1 % 2 ^ Config.fw a, f2 % 2 ^ Config.fw a⟩ ∧
    w.toNat < 2 ^ Config.wordUsed a

/-- 20_memory.md rule R64 and 47_decoder.md rule R311: the eight bytes of a word in each format, low half first, each half
most significant byte first in the native and the big-endian format and least significant byte first in the little-endian
one; reading them gives the word back. -/
def Obligations.WordBytesReadBack : Prop :=
  ∀ w : Word,
    let b (n : Nat) : Byte := w.extractLsb' n 8
    Decode.wordBytes .rawLe32 w = [b 0, b 8, b 16, b 24, b 32, b 40, b 48, b 56] ∧
    Decode.wordBytes .rawBe32 w = [b 24, b 16, b 8, b 0, b 56, b 48, b 40, b 32] ∧
    Decode.wordBytes .b43 w = Decode.wordBytes .rawBe32 w ∧
    ∀ fmt, Decode.wordOfBytes fmt (Decode.wordBytes fmt w) = w

/-- 47_decoder.md rule R312: a word with a bit above the used width (bits 63..48 on Rev5, 63..51 on Rev15) stops the
decoder with `E17` and its index; any other word is ingested. That the refused word does not stand in `DEC.WORDS` is the
model's choice (notes/assumptions/21.md). A Rev15 word read as Rev5 is refused exactly when its opcode is 0x200 or above.
-/
def Obligations.WideWordIsRefused : Prop :=
  (∀ (s : State) (a : Arch) (w : Word) (body : List Byte),
    s.task = .unpack (Decode.wordBytes s.cfg.outFmt w ++ body) → s.cfg.arch = some a →
    let limit := match a with
      | .rev5 => 2 ^ 48
      | .rev15 => 2 ^ 51
    (w.toNat < limit → step s = .next { s with words := s.words ++ [w], task := .unpack body }) ∧
    (limit ≤ w.toNat → step s = .next (s.raise .E17 (.value s.words.length) (.word s.words.length)))) ∧
  ∀ (opc : Opcode) (f0 f1 f2 : Nat),
    Decode.fitsArch .rev5 (Decode.pack .rev15 ⟨opc, f0, f1, f2⟩) = false ↔ 0x200 ≤ opc.toNat

/-- Words of the spec's worked examples decode to their statements (40_alu.md rules R133, R152; 41_extended.md rules R176,
R179, R180; 42_jumps.md rule R211; 43_call_ret_nap.md rules R232, R234, R235, R236; 47_decoder.md rule R319). -/
def Obligations.WorkedWordsDecode : Prop :=
  decodeDefault false .rev5 0x0000101BC1BC2BC3 = .ok (.mul (.reg .gpr 1) (.reg .gpr 2) (.reg .gpr 3)) ∧
  decodeDefault false .rev15 0x0000F05E04001782 = .ok (.tkiph (.reg .gpr 1) (.reg .gpr 2)) ∧
  decodeDefault false .rev5 0x00002F086BC00BC5 =
    .ok (.srx (.number 15) (.number 0) (.reg .spr 0x06B) (.imm 0) (.reg .gpr 5)) ∧
  decodeDefault false .rev15 0x00029A5E0B000010 =
    .ok (.jnzx (.number 3) (.number 4) (.reg .gpr 2) (.imm 0) (.address 0x10)) ∧
  decodeDefault false .rev5 0x000077FBC0BC0003 = .ok (.jext (.number 0x7F) (.reg .gpr 0) (.reg .gpr 0) (.address 3)) ∧
  decodeDefault false .rev15 0x00006EDE12F0A020 = .ok (.jle (.reg .gpr 4) (.reg .gpr 5) (.address 0x20)) ∧
  decodeDefault false .rev5 0x0000002001000010 = .ok (.call (.linkReg 1) (.address 0x10)) ∧
  decodeDefault false .rev15 0x0000018004004003 = .ok (.ret (.linkReg 1) (.linkReg 2) (.linkReg 3)) ∧
  decodeDefault false .rev5 0x0000001000000000 = .ok .nap ∧
  decodeDefault false .rev5 0x00001FF123456789 = .ok (.raw 0x1FF (.raw 0x123) (.raw 0x456) (.raw 0x789))

/-- Decode and encode agree on the decoder's own spelling (47_decoder.md rules R311 to R320, R332; 30_encoding.md rules R84
to R94, R100, R101), in both revisions and for both values of `DEC_TYPED_RAW`, with the default parameters. -/
def Obligations.DecodeOfEncodeIsTheInstruction : Prop :=
  ∀ (typed : Bool) (a : Arch) (i : Instr), i.canonical Params.default typed a = true →
    ∃ w, Decode.encode Params.default a i = [w] ∧ decodeDefault typed a w = .ok i

/-- What the decoder yields is always in its own spelling: no pseudo-instruction (30_encoding.md rule R107), every operand
as 47_decoder.md rules R316 to R320 and R332 say. -/
def Obligations.DecodedInstructionIsCanonical : Prop :=
  ∀ (typed : Bool) (a : Arch) (w : Word) (i : Instr),
    decodeDefault typed a w = .ok i → i.canonical Params.default typed a = true

/-- 47_decoder.md rule R333, word by word with the default parameters and `DEC_TYPED_RAW` off: every word that a well-formed
instruction assembles to decodes to an instruction whose encoding is that same word, and which the encoder accepts unless its
two input operands break 30_encoding.md rule R82. That case does arise, from raw fields: `mul @0x0, @0x1, r1` decodes to
`mul [0x000], [0x001], r1`, which the encoder refuses with `E6`, so the round trip of rule R333 is not claimed there
(notes/assumptions/19.md). The raw form with the opcode of a form with fixed sub-fields is left out: other values there are
dropped with `W7` (rule R340). -/
def Obligations.AssembledWordReassembles : Prop :=
  ∀ (a : Arch) (i : Instr) (w : Word), i.wellFormed Params.default a = true → resolvedInstr i = true →
    (∀ h x y z, i = .raw h x y z → h ∉ fixedSlotOpcodes) → w ∈ Decode.encode Params.default a i →
    ∃ j, decodeDefault false a w = .ok j ∧ Decode.encode Params.default a j = [w] ∧
      (j.wellFormed Params.default a = true ∨ ∃ x y, HasInputs j x y ∧ BreakCooccurrence x y)

/-! ### The step -/

/-- 47_decoder.md rules R314, R315: when the word under classification decodes to an instruction, the step is that
instruction's meaning at the same state. The meaning itself moves on to the next word. -/
def Obligations.StepRunsTheDecodedWord : Prop :=
  ∀ (s : State) (k : Nat) (a : Arch) (w : Word) (i : Instr),
    s.task = .classify k → s.cfg.arch = some a → s.words[k]? = some w →
    Decode.decode s.cfg.params s.cfg.decTypedRaw a w = .ok i → step s = exec i s

/-- 45_resolution.md rules R259, R262: when the encoder is at an instruction statement, the step is the meaning of the
instruction its mnemonic and operands name at the same state; a mnemonic of no table, or another operand count, is `E15` at
the statement's location. A label definition appends a Label record with its name, an unset address and its location; a
directive is skipped; after the last statement the first address-assignment pass begins. That `E15` names the mnemonic and the
count is the model's choice (notes/assumptions/8.md). -/
def Obligations.StepRunsTheCurrentStatement : Prop :=
  (∀ (s : State) (m : Mnemonic) (ops : List Operand) (loc : Option Nat) (rest : List Stmt),
    s.task = .generate (.insn m ops loc :: rest) →
    (∀ i, Statements.ofParts m ops = some i → step s = exec i s) ∧
    (Statements.ofParts m ops = none → step s = .next (s.raise .E15 (.statement m ops.length) (sourceLoc loc))) ∧
    (∀ i, Statements.ofParts m ops = some i ↔ (Statements.mnemonicOf i = m ∧ Statements.operandsOf i = ops))) ∧
  ∀ (s : State) (rest : List Stmt) (name : String) (n : Int) (loc : Option Nat),
    (s.task = .generate (.label name loc :: rest) → step s = .next { s with
      records := s.records ++ [.label name none loc], task := .generate rest }) ∧
    (s.task = .generate (.arch n loc :: rest) → step s = .next { s with task := .generate rest }) ∧
    (s.task = .generate (.start name loc :: rest) → step s = .next { s with task := .generate rest }) ∧
    (s.task = .generate [] → step s = .next { s with task := .startPass })

/-! ### Generation, instruction by instruction -/

/-- 40_alu.md rules R130, R133 to R150: each of the eighteen STD3 instructions is generated as one record with its opcode
and the fields of its three operands; everything else is unchanged. -/
def Obligations.StandardInstructionsGenerate : Prop :=
  Std3Generation .mul "mul" (·.mul) ∧ Std3Generation .add "add" (·.add) ∧ Std3Generation .addDot "add." (·.addDot) ∧
  Std3Generation .addc "addc" (·.addc) ∧ Std3Generation .addcDot "addc." (·.addcDot) ∧
  Std3Generation .sub "sub" (·.sub) ∧ Std3Generation .subDot "sub." (·.subDot) ∧ Std3Generation .subc "subc" (·.subc) ∧
  Std3Generation .subcDot "subc." (·.subcDot) ∧ Std3Generation .sra "sra" (·.sra) ∧ Std3Generation .or "or" (·.or) ∧
  Std3Generation .and "and" (·.and) ∧ Std3Generation .xor "xor" (·.xor) ∧ Std3Generation .sr "sr" (·.sr) ∧
  Std3Generation .sl "sl" (·.sl) ∧ Std3Generation .rl "rl" (·.rl) ∧ Std3Generation .rr "rr" (·.rr) ∧
  Std3Generation .nand "nand" (·.nand)

/-- 40_alu.md rules R151 to R155: each TKIP instruction is generated with the constant in slot 1. -/
def Obligations.TkipInstructionsGenerate : Prop :=
  Tkip2Generation .tkiph "tkiph" (·.tkiph) ∧ Tkip2Generation .tkiphs "tkiphs" (·.tkiphs) ∧
  Tkip2Generation .tkipl "tkipl" (·.tkipl) ∧ Tkip2Generation .tkipls "tkipls" (·.tkipls)

/-- 41_extended.md rules R170 to R173, R176 to R181: the six extended instructions are generated with their auxiliary
numbers in the opcode's low byte and the family's value above it, the four jumps with the jump flag; by default the
families are 2 to 7 (30_encoding.md rule R101). -/
def Obligations.ExtendedInstructionsGenerate : Prop :=
  BitFieldGeneration .srx "srx" (·.srx) ∧ BitFieldGeneration .orx "orx" (·.orx) ∧
  BitFieldJumpGeneration .jzx "jzx" (·.jzx) ∧ BitFieldJumpGeneration .jnzx "jnzx" (·.jnzx) ∧
  ConditionGeneration .jnext "jnext" (·.jnext) ∧ ConditionGeneration .jext "jext" (·.jext) ∧
  Flags.extendedFamilies Params.default.opcodes = [2, 3, 4, 5, 6, 7]

/-- 41_extended.md rule R170: an auxiliary operand is accepted exactly when it is a number or an immediate from 0 to its
largest value, and read as its value; a number out of range is `E14` with it, any other kind `E15`. That this `E15` names
the operand is the model's choice (notes/assumptions/8.md). -/
def Obligations.AuxiliaryOperandRange : Prop :=
  ∀ (max : Nat) (v : Int) (u : Imm) (op : Operand),
    (encAux max (.number v)).result = (if 0 ≤ v ∧ v ≤ max then .ok v.toNat else .error ⟨.E14, .value v⟩) ∧
    (encAux max (.imm u)).result =
      (if 0 ≤ u.toInt ∧ u.toInt ≤ max then .ok u.toInt.toNat else .error ⟨.E14, .value u.toInt⟩) ∧
    ((∀ v', op ≠ .number v') → (∀ u', op ≠ .imm u') → (encAux max op).result = .error ⟨.E15, .operands [op]⟩)

/-- 42_jumps.md rules R190, R191, R194 to R211: the eighteen conditional jumps in their native form, `jand` and `jnand`
where rule R191 selects it. -/
def Obligations.ConditionalJumpsGenerate : Prop :=
  CjmpGeneration NativeMask .jand "jand" (·.jand) ∧ CjmpGeneration NativeMask .jnand "jnand" (·.jnand) ∧
  CjmpGeneration (fun _ _ _ => True) .js "js" (·.js) ∧ CjmpGeneration (fun _ _ _ => True) .jns "jns" (·.jns) ∧
  CjmpGeneration (fun _ _ _ => True) .je "je" (·.je) ∧ CjmpGeneration (fun _ _ _ => True) .jne "jne" (·.jne) ∧
  CjmpGeneration (fun _ _ _ => True) .jls "jls" (·.jls) ∧ CjmpGeneration (fun _ _ _ => True) .jges "jges" (·.jges) ∧
  CjmpGeneration (fun _ _ _ => True) .jgs "jgs" (·.jgs) ∧ CjmpGeneration (fun _ _ _ => True) .jles "jles" (·.jles) ∧
  CjmpGeneration (fun _ _ _ => True) .jdn "jdn" (·.jdn) ∧ CjmpGeneration (fun _ _ _ => True) .jdpz "jdpz" (·.jdpz) ∧
  CjmpGeneration (fun _ _ _ => True) .jdp "jdp" (·.jdp) ∧ CjmpGeneration (fun _ _ _ => True) .jdnz "jdnz" (·.jdnz) ∧
  CjmpGeneration (fun _ _ _ => True) .jl "jl" (·.jl) ∧ CjmpGeneration (fun _ _ _ => True) .jge "jge" (·.jge) ∧
  CjmpGeneration (fun _ _ _ => True) .jg "jg" (·.jg) ∧ CjmpGeneration (fun _ _ _ => True) .jle "jle" (·.jle)

/-- 42_jumps.md rule R191: with a wide immediate whose low 16 bits are one run of ones, `jand` is generated as `jnzx` and
`jnand` as `jzx`, the run's width minus one and its lowest bit in the opcode, the other operand in slot 0 and `#0` in slot
1, after `W5`. -/
def Obligations.WideMaskJumpsAreEmulated : Prop :=
  MaskJumpGeneration .jand "jnzx" (·.jnzx) ∧ MaskJumpGeneration .jnand "jzx" (·.jzx)

/-- 42_jumps.md rule R191: the wide immediates that have no emulation, on either side of the other operand. Two of them are
`E13`, one that is not a possible immediate is `E13` with it, one whose low 16 bits are no run of ones is `E8` with it. That
the `E13` of two wide immediates names both operands is the model's choice (notes/assumptions/8.md). -/
def Obligations.UnencodableMaskJumpsAreFatal : Prop :=
  ∀ (s : State) (st : Stmt) (rest : List Stmt) (a : Arch) (u v : Imm) (x t : Operand),
    s.task = .generate (st :: rest) → s.cfg.arch = some a →
    Flags.isValidImmediate a u = false → Flags.isValidImmediate a v = false → Flags.isImm x = false →
    ∀ mk : Operand → Operand → Operand → Instr, mk = .jand ∨ mk = .jnand →
      exec (mk (.imm u) (.imm v) t) s = .next (s.raise .E13 (.operands [.imm u, .imm v]) (sourceLoc (stmtLoc st))) ∧
      ∀ form : Instr, form = mk x (.imm v) t ∨ form = mk (.imm v) x t →
        (Flags.isPossibleImmediate v = false →
          exec form s = .next (s.raise .E13 (.value v.toInt) (sourceLoc (stmtLoc st)))) ∧
        (Flags.isPossibleImmediate v = true → (∀ w sh : Nat, v.toNat % 65536 ≠ (2 ^ w - 1) * 2 ^ sh) →
          exec form s = .next (s.raise .E8 (.value v.toInt) (sourceLoc (stmtLoc st))))

/-- 43_call_ret_nap.md rules R230, R232, R233: `call` and `calls` are generated with their link register and their
constants, as jump-class records. -/
def Obligations.CallsGenerate : Prop :=
  ∀ (s : State) (st : Stmt) (rest : List Stmt) (a : Arch) (lr t : Operand),
    s.task = .generate (st :: rest) → s.cfg.arch = some a → WellFormed.okTarget a t = true →
    (WellFormed.okLr s.cfg.params a lr = true →
      exec (.call lr t) s = .next (generated s st rest []
        ⟨"call", s.cfg.params.opcodes.call, recordField s.cfg.params a lr, .value s.cfg.params.constants.call1,
          recordField s.cfg.params a t, true⟩)) ∧
    exec (.calls t) s = .next (generated s st rest []
      ⟨"calls", s.cfg.params.opcodes.calls, .value s.cfg.params.constants.calls0, .value s.cfg.params.constants.calls1,
        recordField s.cfg.params a t, true⟩)

/-- 43_call_ret_nap.md rules R234, R235, 45_resolution.md rule R267: `ret`, `rets` and `nap` are generated with their link
registers or constants; `ret` and `rets` draw `W4` with their location, and `nap` does not, when they come after a jump: when
the last instruction record before them that is no entry jump, label records skipped, is jump-class. -/
def Obligations.ReturnsAndNapGenerate : Prop :=
  ∀ (s : State) (st : Stmt) (rest : List Stmt) (a : Arch) (x y z : Operand),
    s.task = .generate (st :: rest) → s.cfg.arch = some a →
    let afterJump := (lastFromStatement s.records).any (·.isJump)
    let w4 : List Warning := if afterJump then [⟨.W4, .location (sourceLoc (stmtLoc st)), sourceLoc (stmtLoc st)⟩] else []
    (afterJump = true ↔ ∃ (k : Nat) (r : InsnRec), s.records[k]? = some (.insn r) ∧ r.isEntryJump = false ∧
      r.isJump = true ∧ ∀ (j : Nat) (q : InsnRec), k < j → s.records[j]? = some (.insn q) → q.isEntryJump = true) ∧
    (WellFormed.okLr s.cfg.params a x = true → WellFormed.okLr s.cfg.params a y = true →
      WellFormed.okLr s.cfg.params a z = true →
      exec (.ret x y z) s = .next { s with
        warnings := s.warnings ++ w4
        records := s.records ++ [.insn ⟨"ret", s.cfg.params.opcodes.ret, recordField s.cfg.params a x,
          recordField s.cfg.params a y, recordField s.cfg.params a z, none, false, false, stmtLoc st⟩]
        task := .generate rest }) ∧
    exec .rets s = .next { s with
      warnings := s.warnings ++ w4
      records := s.records ++ [.insn ⟨"rets", s.cfg.params.opcodes.rets, .value s.cfg.params.constants.rets0,
        .value s.cfg.params.constants.rets1, .value s.cfg.params.constants.rets2, none, false, false, stmtLoc st⟩]
      task := .generate rest } ∧
    exec .nap s = .next { s with
      records := s.records ++ [.insn ⟨"nap", s.cfg.params.opcodes.nap, .value s.cfg.params.constants.nap0,
        .value s.cfg.params.constants.nap1, .value s.cfg.params.constants.nap2, none, false, false, stmtLoc st⟩]
      task := .generate rest }

/-- 43_call_ret_nap.md rule R236: the raw form is generated with its own opcode, no jump; an opcode above 0xFFF is `E22`.
The spelling of its mnemonic in the record is the model's choice (notes/assumptions/13.md). -/
def Obligations.RawInstructionGenerates : Prop :=
  ∀ (s : State) (st : Stmt) (rest : List Stmt) (a : Arch) (h : Nat) (x y z : Operand),
    s.task = .generate (st :: rest) → s.cfg.arch = some a →
    (h ≤ 0xFFF → WellFormed.okStd3 s.cfg.params a x y z = true →
      exec (.raw h x y z) s = .next (generated s st rest (slotWarnings a [x, y, z])
        ⟨Statements.spell (.raw h), BitVec.ofNat 12 h, recordField s.cfg.params a x, recordField s.cfg.params a y,
          recordField s.cfg.params a z, false⟩)) ∧
    (0xFFF < h → exec (.raw h x y z) s = .next (s.raise .E22 (.value h) (sourceLoc (stmtLoc st))))

/-- 44_pseudo.md rules R250, R251: `mov` of a native immediate or of no immediate is the record of `or src, #0, dst`; of a
possible wide immediate, under the default `MOV_EMUL`, the record of `orx 7, 8, #hi, #lo, dst` after `W5`; under the other
value of the parameter, the records of `or #lo, #0, dst` and `orx 7, 8, #hi, dst, dst`. -/
def Obligations.MovGenerates : Prop :=
  ∀ (s : State) (st : Stmt) (rest : List Stmt) (a : Arch) (src dst : Operand) (v : Imm),
    s.task = .generate (st :: rest) → s.cfg.arch = some a →
    let p := s.cfg.params
    let byteField (b : Nat) : Field := .value (Config.immTag a + b)
    let hiByte := v.toNat / 256 % 256
    let loByte := v.toNat % 256
    let orxOpcode := BitVec.ofNat 12 (p.opcodes.orx.toNat * 256 + 0x78)
    ((Flags.isValidImmOperand a src = true ∨ Flags.isImm src = false) → WellFormed.okIn p a src = true →
      WellFormed.okOut p a dst = true →
      exec (.mov src dst) s = .next (generated s st rest (slotWarnings a [src, dst])
        ⟨"or", p.opcodes.or, recordField p a src, byteField 0, recordField p a dst, false⟩)) ∧
    (Flags.isValidImmediate a v = false → Flags.isPossibleImmediate v = true → p.movEmul = .singleOrx →
      WellFormed.okOut p a dst = true →
      exec (.mov (.imm v) dst) s = .next (generated s st rest ((.W5, .value v.toInt) :: slotWarnings a [dst])
        ⟨"orx", orxOpcode, byteField hiByte, byteField loByte, recordField p a dst, false⟩)) ∧
    (Flags.isValidImmediate a v = false → Flags.isPossibleImmediate v = true → p.movEmul = .orLoThenOrxHi →
      WellFormed.okIn p a dst = true →
      exec (.mov (.imm v) dst) s = .next (generated
        (generated s st rest ((.W5, .value v.toInt) :: slotWarnings a [dst])
          ⟨"or", p.opcodes.or, byteField loByte, byteField 0, recordField p a dst, false⟩)
        st rest (slotWarnings a [dst, dst])
        ⟨"orx", orxOpcode, byteField hiByte, recordField p a dst, recordField p a dst, false⟩)) ∧
    (Flags.isPossibleImmediate v = false →
      exec (.mov (.imm v) dst) s = .next (s.raise .E13 (.value v.toInt) (sourceLoc (stmtLoc st))))

/-- 44_pseudo.md rule R252: `jmp target` is generated as `jext 0x7F, r0, r0, target`, for every operand; with a jump
target it is one jump-class record with the opcode of `jext` and condition 0x7F (0x77F by default). -/
def Obligations.JmpGenerates : Prop :=
  ∀ (s : State) (st : Stmt) (rest : List Stmt) (a : Arch) (t : Operand),
    s.task = .generate (st :: rest) → s.cfg.arch = some a →
    exec (.jmp t) s = exec (.jext (.number 0x7F) (.reg .gpr 0) (.reg .gpr 0) t) s ∧
    (WellFormed.okTarget a t = true →
      exec (.jmp t) s = .next (generated s st rest []
        ⟨"jext", BitVec.ofNat 12 (s.cfg.params.opcodes.jext.toNat * 256 + 0x7F), recordField s.cfg.params a (.reg .gpr 0),
          recordField s.cfg.params a (.reg .gpr 0), recordField s.cfg.params a t, true⟩))

/-- 30_encoding.md rule R82, on every instruction with two input operands, whatever stands in slot 2: two Memory operands
are `E6`, two SPR operands `E5`, after the warnings of both. That they name the two operands is the model's choice
(notes/assumptions/8.md). -/
def Obligations.RestrictedPairsAreFatal : Prop :=
  ∀ (s : State) (st : Stmt) (rest : List Stmt) (a : Arch) (m n c : Operand) (h : Nat) (x y z : Operand),
    s.task = .generate (st :: rest) → s.cfg.arch = some a →
    WellFormed.okAux 15 m = true → WellFormed.okAux 15 n = true → WellFormed.okAux 255 c = true → h ≤ 0xFFF →
    WellFormed.okIn s.cfg.params a x = true → WellFormed.okIn s.cfg.params a y = true →
    let warned := { s with warnings := s.warnings ++ logged (sourceLoc (stmtLoc st)) (slotWarnings a [x, y]) }
    ∀ mk ∈ pairedForms m n c h,
      (Flags.isMemory x = true → Flags.isMemory y = true →
        exec (mk x y z) s = .next (warned.raise .E6 (.operands [x, y]) (sourceLoc (stmtLoc st)))) ∧
      (Flags.isSpr x = true → Flags.isSpr y = true →
        exec (mk x y z) s = .next (warned.raise .E5 (.operands [x, y]) (sourceLoc (stmtLoc st))))

/-- The encoder accepts exactly the well-formed instructions (30_encoding.md rules R82 to R94, R108 and the instruction
rules): generation goes on to the next statement for those, and for every other instruction it stops with one of the fatal
codes those rules name. -/
def Obligations.GenerationAcceptsExactlyTheWellFormed : Prop :=
  ∀ (s : State) (st : Stmt) (rest : List Stmt) (a : Arch) (i : Instr),
    s.task = .generate (st :: rest) → s.cfg.arch = some a →
    (i.wellFormed s.cfg.params a = true →
      ∃ t, exec i s = .next t ∧ t.task = .generate rest ∧ t.fatal = s.fatal ∧ t.outValid = s.outValid) ∧
    (i.wellFormed s.cfg.params a = false →
      ∃ t d, exec i s = .next t ∧ t.task = .idle ∧ t.outValid = false ∧ t.fatal = some d ∧
        d.loc = sourceLoc (stmtLoc st) ∧ d.code ∈ [ECode.E5, .E6, .E7, .E8, .E13, .E14, .E15, .E16, .E22])

/-- What every instruction leaves unchanged at generation, and what it only extends (45_resolution.md rule R262,
60_exceptions.md rule R390): the records and the warnings before it stay; nothing of the decoder or the serializer moves; no
byte is emitted; `OUT` changes only with a fatal error. -/
def Obligations.GenerationFrame : Prop :=
  ∀ (s t : State) (todo : List Stmt) (i : Instr),
    s.task = .generate todo → exec i s = .next t →
    SameFrame s t ∧ t.decoded = s.decoded ∧ t.targets = s.targets ∧ t.stmts = s.stmts ∧
    (∃ rs, t.records = s.records ++ rs ∧ ∀ r ∈ rs, isInsn r = true ∧ isEntryRecord r = false ∧ recordAddr r = none) ∧
    (∃ ws, t.warnings = s.warnings ++ ws ∧ ∀ w ∈ ws, w.loc = sourceLoc (currentLoc todo)) ∧
    (t.task ≠ .idle → t.out = s.out ∧ t.outValid = s.outValid ∧ t.fatal = s.fatal ∧ t.freeCount = s.freeCount)

/-- The machine's generation and the encoder of Decode.lean, written apart from the same tables, agree (30_encoding.md rules
R83 to R94, R100, R101; 46_emission.md rule R290): for a well-formed instruction whose references are addresses, the records
it appends pack to the words it encodes to. -/
def Obligations.GeneratedRecordsPackToTheEncoding : Prop :=
  ∀ (s t : State) (st : Stmt) (rest : List Stmt) (a : Arch) (i : Instr),
    s.task = .generate (st :: rest) → s.cfg.arch = some a → i.wellFormed s.cfg.params a = true →
    resolvedInstr i = true → exec i s = .next t →
    t.records.map (recordWord a) = s.records.map (recordWord a) ++ (Decode.encode s.cfg.params a i).map some

/-! ### Delivery, instruction by instruction -/

/-- 40_alu.md rule R131, 41_extended.md rule R174, 47_decoder.md rules R317, R332: the STD3 instructions, `srx`, `orx` and
the raw form are delivered with no warning and no target. -/
def Obligations.PlainFormsAreDelivered : Prop :=
  ∀ (h : Nat) (m n x y d : Operand),
    PlainDelivery (.mul x y d) ∧ PlainDelivery (.add x y d) ∧ PlainDelivery (.addDot x y d) ∧ PlainDelivery (.addc x y d) ∧
    PlainDelivery (.addcDot x y d) ∧ PlainDelivery (.sub x y d) ∧ PlainDelivery (.subDot x y d) ∧
    PlainDelivery (.subc x y d) ∧ PlainDelivery (.subcDot x y d) ∧ PlainDelivery (.sra x y d) ∧ PlainDelivery (.or x y d) ∧
    PlainDelivery (.and x y d) ∧ PlainDelivery (.xor x y d) ∧ PlainDelivery (.sr x y d) ∧ PlainDelivery (.sl x y d) ∧
    PlainDelivery (.rl x y d) ∧ PlainDelivery (.rr x y d) ∧ PlainDelivery (.nand x y d) ∧
    PlainDelivery (.srx m n x y d) ∧ PlainDelivery (.orx m n x y d) ∧ PlainDelivery (.raw h x y d)

/-- 41_extended.md rule R174, 42_jumps.md rule R190, 47_decoder.md rule R320: the bit-field, external-condition and
conditional jumps are delivered with their target recorded, or stop the decoder with `E18` when it is at or beyond the
instruction count. -/
def Obligations.JumpsAreDelivered : Prop :=
  ∀ c m n x y : Operand,
    JumpDelivery (.jzx m n x y) ∧ JumpDelivery (.jnzx m n x y) ∧ JumpDelivery (.jext c x y) ∧ JumpDelivery (.jnext c x y) ∧
    JumpDelivery (.jand x y) ∧ JumpDelivery (.jnand x y) ∧ JumpDelivery (.js x y) ∧ JumpDelivery (.jns x y) ∧
    JumpDelivery (.je x y) ∧ JumpDelivery (.jne x y) ∧ JumpDelivery (.jls x y) ∧ JumpDelivery (.jges x y) ∧
    JumpDelivery (.jgs x y) ∧ JumpDelivery (.jles x y) ∧ JumpDelivery (.jdn x y) ∧ JumpDelivery (.jdpz x y) ∧
    JumpDelivery (.jdp x y) ∧ JumpDelivery (.jdnz x y) ∧ JumpDelivery (.jl x y) ∧ JumpDelivery (.jge x y) ∧
    JumpDelivery (.jg x y) ∧ JumpDelivery (.jle x y)

/-- 40_alu.md rule R151, 43_call_ret_nap.md rules R231, R235: the TKIP instructions, `rets` and `nap` are delivered with one
`W7` for each fixed slot that does not hold its constant. -/
def Obligations.FixedSubFieldsAreCheckedOnDelivery : Prop :=
  (∀ x d : Operand,
    CheckedDelivery (.tkiph x d) "tkiph" (fun p => [(1, p.constants.tkip1)]) ∧
    CheckedDelivery (.tkiphs x d) "tkiphs" (fun p => [(1, p.constants.tkip1)]) ∧
    CheckedDelivery (.tkipl x d) "tkipl" (fun p => [(1, p.constants.tkip1)]) ∧
    CheckedDelivery (.tkipls x d) "tkipls" (fun p => [(1, p.constants.tkip1)])) ∧
  CheckedDelivery .rets "rets" (fun p => [(0, p.constants.rets0), (1, p.constants.rets1), (2, p.constants.rets2)]) ∧
  CheckedDelivery .nap "nap" (fun p => [(0, p.constants.nap0), (1, p.constants.nap1), (2, p.constants.nap2)])

/-- 43_call_ret_nap.md rules R230 to R234, 47_decoder.md rule R320: `call`, `calls` and `ret` are delivered with a `W7`
for a link-register slot that holds no link register, then the target's range check and marker, then a `W7` for each fixed
slot that does not hold its constant. That the target comes between the two is the model's choice
(notes/assumptions/7.md). -/
def Obligations.CallsAndReturnsAreDelivered : Prop :=
  ∀ (s : State) (k : Nat) (a : Arch) (w : Word) (t : Nat) (lr x y z : Operand),
    s.task = .classify k → s.cfg.arch = some a → s.words[k]? = some w →
    let p := s.cfg.params
    let f := Decode.unpack a w
    let lr0 := lrWarnings p f [0]
    (t < s.count →
      exec (.call lr (.address t)) s = .next { delivered s k (.call lr (.address t))
        (lr0 ++ constWarnings "call" f [(1, p.constants.call1)]) with targets := insertTarget t s.targets } ∧
      exec (.calls (.address t)) s = .next { delivered s k (.calls (.address t))
        (constWarnings "calls" f [(0, p.constants.calls0), (1, p.constants.calls1)]) with
          targets := insertTarget t s.targets }) ∧
    (s.count ≤ t →
      exec (.call lr (.address t)) s =
        .next ({ s with warnings := s.warnings ++ logged (.word k) lr0 }.raise .E18 (.value t) (.word k)) ∧
      exec (.calls (.address t)) s = .next (s.raise .E18 (.value t) (.word k))) ∧
    exec (.ret x y z) s = .next (delivered s k (.ret x y z) (lrWarnings p f [0, 1, 2]))

/-- What every instruction leaves unchanged at delivery (47_decoder.md rules R314 to R332): nothing of the encoder or the
serializer moves; the statements before it and the warnings stay; the markers gain the target of the delivered jump and
nothing else (rule R321). -/
def Obligations.DeliveryFrame : Prop :=
  ∀ (s t : State) (k : Nat) (i : Instr),
    s.task = .classify k → exec i s = .next t →
    SameFrame s t ∧ t.records = s.records ∧ t.out = s.out ∧
    (∃ ws, t.warnings = s.warnings ++ ws ∧ ∀ w ∈ ws, w.code = .W7 ∧ w.loc = .word k) ∧
    (t.task ≠ .idle → ∀ u, u ∈ t.targets ↔ u ∈ s.targets ∨ Flags.jumpTarget i = some (.address u)) ∧
    (t.task ≠ .idle → t.task = .classify (k + 1) ∧ t.decoded = s.decoded ++ [(k, i)] ∧ t.stmts = s.stmts ∧
      t.fatal = s.fatal ∧ t.outValid = s.outValid ∧ t.freeCount = s.freeCount) ∧
    (t.task = .idle → t.decoded = s.decoded ∧ t.targets = s.targets)

/-! ### Directives, resolution, emission -/

/-- 45_resolution.md rule R261: 5 and 15 pass, 6 to 14 become Rev5 and values above 15 become Rev15 with `W1`, every value
below 5 is `E3`. That `W1` has no location is the model's choice (notes/assumptions/8.md). -/
def Obligations.ArchitectureValueIsNormalized : Prop :=
  ∀ (s : State) (all : List Stmt) (n : Int), s.task = .scan all [] (some n) →
    let arch (a : Arch) (ws : List Warning) : State :=
      { s with cfg := { s.cfg with arch := some a }, warnings := s.warnings ++ ws, task := .place all }
    (n = 5 → step s = .next (arch .rev5 [])) ∧ (n = 15 → step s = .next (arch .rev15 [])) ∧
    (6 ≤ n → n ≤ 14 → step s = .next (arch .rev5 [⟨.W1, .value n, .none⟩])) ∧
    (15 < n → step s = .next (arch .rev15 [⟨.W1, .value n, .none⟩])) ∧
    (n < 5 → step s = .next (s.raise .E3 (.value n) .none))

/-- 45_resolution.md rule R260: a second architecture directive is `E2` even with an equal value, a second entry-point
directive is `E4`, both naming the directive's location; instruction and label statements are passed over; a sequence without
an architecture directive is `E1`, which names nothing (notes/assumptions/8.md). -/
def Obligations.DirectivesAreCounted : Prop :=
  ∀ (s : State) (all rest : List Stmt) (n m : Int) (l l' : String) (loc : Option Nat) (archv : Option Int),
    (s.task = .scan all (.arch n loc :: rest) (some m) →
      step s = .next (s.raise .E2 (.location (sourceLoc loc)) (sourceLoc loc))) ∧
    (s.task = .scan all (.arch n loc :: rest) none → step s = .next { s with task := .scan all rest (some n) }) ∧
    (s.task = .scan all (.start l loc :: rest) archv → s.entry = some l' →
      step s = .next (s.raise .E4 (.location (sourceLoc loc)) (sourceLoc loc))) ∧
    (s.task = .scan all (.start l loc :: rest) archv → s.entry = none →
      step s = .next { s with entry := some l, task := .scan all rest archv }) ∧
    (∀ mn ops, s.task = .scan all (.insn mn ops loc :: rest) archv →
      step s = .next { s with task := .scan all rest archv }) ∧
    (s.task = .scan all (.label l loc :: rest) archv → step s = .next { s with task := .scan all rest archv }) ∧
    (s.task = .scan all [] none → step s = .next (s.raise .E1 .none .none))

/-- 45_resolution.md rule R263: with an entry label the first record is the jump to it, flagged as the entry jump; without
one there is no record. -/
def Obligations.EntryJumpIsPlacedFirst : Prop :=
  ∀ (s : State) (all : List Stmt) (a : Arch), s.task = .place all → s.cfg.arch = some a →
    (∀ l, s.entry = some l → step s = .next { s with
      records := [.insn ⟨"jext", BitVec.ofNat 12 (s.cfg.params.opcodes.jext.toNat * 256 + 0x7F),
        recordField s.cfg.params a (.reg .gpr 0), recordField s.cfg.params a (.reg .gpr 0),
        .pending (.label l .absolute), none, true, true, none⟩]
      task := .generate all }) ∧
    (s.entry = none → step s = .next { s with records := [], task := .generate all })

/-- 45_resolution.md rules R265, R269: after a pass, an entry jump whose label is defined once and stands at address 1 is
deleted and assignment restarts; at any other address it stays and resolution goes on; a missing label is `E9`, a label
defined twice `E10`, both with no location. A pass whose records hold no entry jump goes on to resolution. -/
def Obligations.EntryJumpToTheNextAddressIsElided : Prop :=
  (∀ (s : State) (r : InsnRec) (rs : List Record) (l : String),
    s.task = .elide → s.records = .insn r :: rs → r.isEntryJump = true → s.entry = some l →
    (∀ j t, definitions s.records l = [(j, some t)] →
      step s = .next (if t = 1 then { s with records := rs, task := .startPass } else { s with task := .resolve 0 })) ∧
    (definitions s.records l = [] → step s = .next (s.raise .E9 (.name l) .none)) ∧
    (1 < (definitions s.records l).length → step s = .next (s.raise .E10 (.name l) .none))) ∧
  ∀ s : State, s.task = .elide → (∀ r, .insn r ∈ s.records → r.isEntryJump = false) →
    step s = .next { s with task := .resolve 0 }

/-- 45_resolution.md rule R272: an Absolute reference finds the only definition of its name, `E9` without one and `E10` with
more; a RelativeBackward one the last definition before it; a RelativeForward one the first after it. Stated by positions in
the records, all of whose labels have an address. -/
def Obligations.LookupFindsTheStatedDefinition : Prop :=
  ∀ (rs : List Record) (k : Nat) (name : String) (t : Nat),
    let isDef (i : Nat) : Prop := ∃ addr loc, rs[i]? = some (.label name addr loc)
    let isDefAt (i : Nat) : Prop := ∃ loc, rs[i]? = some (.label name (some t) loc)
    (∀ n addr loc, .label n addr loc ∈ rs → addr.isSome) →
    (lookup rs k name .absolute = .ok t ↔ ∃ i, isDefAt i ∧ ∀ j, isDef j → j = i) ∧
    (lookup rs k name .absolute = .error ⟨.E9, .name name⟩ ↔ ∀ i, ¬ isDef i) ∧
    (lookup rs k name .absolute = .error ⟨.E10, .name name⟩ ↔ ∃ i j, i < j ∧ isDef i ∧ isDef j) ∧
    (lookup rs k name .backward = .ok t ↔ ∃ i, i < k ∧ isDefAt i ∧ ∀ j, j < k → isDef j → j ≤ i) ∧
    (lookup rs k name .backward = .error ⟨.E9, .name name⟩ ↔ ∀ i, i < k → ¬ isDef i) ∧
    (lookup rs k name .forward = .ok t ↔ ∃ i, k < i ∧ isDefAt i ∧ ∀ j, k < j → isDef j → i ≤ j) ∧
    (lookup rs k name .forward = .error ⟨.E9, .name name⟩ ↔ ∀ i, k < i → ¬ isDef i)

/-- 30_encoding.md rule R93, 45_resolution.md rule R273, 60_exceptions.md rule R387: a label resolved to `t` is `t` in
slot 2, and in slot 0 or 1 `t` with the immediate tag bits set, cut to the field; an address in slot 2 is itself, a number
stays. At record `k` the step puts the fields of the slots 0, 1, 2 so resolved into that record, leaves its opcode, its
flags and the other records as they are and goes on to the next record; where a reference finds no definition, it stops at
the first such slot with `E9` or `E10` naming the label, at the location of the record's statement
(notes/assumptions/8.md), the other records unchanged. A label record is passed over; the end of the records goes on to
emission. -/
def Obligations.ResolvedReferenceField : Prop :=
  (∀ (a : Arch) (rs : List Record) (k slot t : Nat) (name : String) (dir : RefDir),
    resolveField a rs k slot (.value t) = .ok (.value t) ∧
    resolveField a rs k 2 (.pending (.address t)) = .ok (.value t) ∧
    (lookup rs k name dir = .ok t → slot < 3 →
      resolveField a rs k slot (.pending (.label name dir)) =
        .ok (.value (if slot = 2 then t
          else match a with
            | .rev5 => 0xC00 + t % 0x400
            | .rev15 => 0x1800 + t % 0x800)))) ∧
  ∀ (s : State) (a : Arch) (k : Nat), s.task = .resolve k → s.cfg.arch = some a →
    (∀ r g0 g1 g2, s.records[k]? = some (.insn r) → resolveField a s.records k 0 r.f0 = .ok g0 →
      resolveField a s.records k 1 r.f1 = .ok g1 → resolveField a s.records k 2 r.f2 = .ok g2 →
      step s = .next { s with
        records := s.records.set k (.insn { r with f0 := g0, f1 := g1, f2 := g2 }), task := .resolve (k + 1) }) ∧
    (∀ r slot name dir, s.records[k]? = some (.insn r) → (∀ n ad l, .label n ad l ∈ s.records → ad.isSome) → slot < 3 →
      (∀ j < slot, ∃ g, resolveField a s.records k j (recordSlot r j) = .ok g) →
      recordSlot r slot = .pending (.label name dir) → (∀ t, lookup s.records k name dir ≠ .ok t) →
      ∃ c t, (c = .E9 ∨ c = .E10) ∧ lookup s.records k name dir = .error ⟨c, .name name⟩ ∧ step s = .next t ∧
        t.fatal = some ⟨c, .name name, sourceLoc r.loc⟩ ∧ t.outValid = false ∧ t.task = .idle ∧
        t.warnings = s.warnings ∧ ∀ j ≠ k, t.records[j]? = s.records[j]?) ∧
    (∀ n ad l, s.records[k]? = some (.label n ad l) → step s = .next { s with task := .resolve (k + 1) }) ∧
    (s.records[k]? = none → step s = .next { s with task := .emitHead })

/-- 46_emission.md rules R293, R294, R295: emission begins with the ceiling warning, drawn on Rev5 above 4096 instructions
and on Rev15 above the ceiling, where one is set, then the header in the native format alone: type, version, two zeros,
the size 8·N most significant byte first. That `W6` has no location is the model's choice (notes/assumptions/8.md), that
the size is cut to 32 bits for `N` of 2^29 and more is deduced (notes/assumptions/14.md). -/
def Obligations.EmissionBeginsWithTheHeader : Prop :=
  ∀ (s : State) (a : Arch) (limit15 : Option Nat), s.task = .emitHead → s.cfg.arch = some a →
    s.cfg.params = { Params.default with maxInsnsRev15 := limit15 } →
    let size := 8 * s.count
    let head : List Byte := [0x75, 0x01, 0, 0, BitVec.ofNat 8 (size / 16777216), BitVec.ofNat 8 (size / 65536),
      BitVec.ofNat 8 (size / 256), BitVec.ofNat 8 size]
    let limit : Option Nat := match a with
      | .rev5 => some 4096
      | .rev15 => limit15
    let w6 : List Warning := if limit.any (· < s.count) then [⟨.W6, .value s.count, .none⟩] else []
    step s = .next { s with
      warnings := s.warnings ++ w6
      out := s.out ++ (if s.cfg.outFmt = .b43 then head else [])
      task := .emitWord 0 }

/-- 46_emission.md rules R290, R291, R293, 20_memory.md rules R64, R67: a resolved record is emitted as the eight bytes of
its packed word in the selected order, with `W8` when a field is wider than `FW`; a label emits nothing; at the end of the
records `OUT_VALID` is set. That `W8` has the location of the record's statement, and which field it names, is the model's
choice (notes/assumptions/8.md). -/
def Obligations.EmissionAppendsOneWordPerInstruction : Prop :=
  ∀ (s : State) (a : Arch) (k : Nat), s.task = .emitWord k → s.cfg.arch = some a →
    (∀ r v0 v1 v2, s.records[k]? = some (.insn r) → r.f0 = .value v0 → r.f1 = .value v1 → r.f2 = .value v2 →
      ∃ t, step s = .next t ∧ t.task = .emitWord (k + 1) ∧
        t.out = s.out ++ Decode.wordBytes s.cfg.outFmt (Decode.pack a ⟨r.opcode, v0, v1, v2⟩) ∧
        t.records = s.records ∧ t.fatal = s.fatal ∧ t.cfg = s.cfg ∧
        ((v0 < 2 ^ Config.fw a ∧ v1 < 2 ^ Config.fw a ∧ v2 < 2 ^ Config.fw a) → t.warnings = s.warnings) ∧
        (¬ (v0 < 2 ^ Config.fw a ∧ v1 < 2 ^ Config.fw a ∧ v2 < 2 ^ Config.fw a) →
          ∃ f, t.warnings = s.warnings ++ [⟨.W8, .value f, sourceLoc r.loc⟩] ∧ 2 ^ Config.fw a ≤ f)) ∧
    (∀ n ad l, s.records[k]? = some (.label n ad l) → step s = .next { s with task := .emitWord (k + 1) }) ∧
    (s.records[k]? = none → step s = .next { s with outValid := true, task := .idle })

/-- 46_emission.md rule R293: when an encoder run completes, the output is `8 + 8N` bytes in the native format and `8N` in
the raw formats, and the `N` instructions stand at the addresses 0 to N − 1 in record order (45_resolution.md rule R274). -/
def Obligations.CompletedMicrocodeLength : Prop :=
  ∀ (s t : State) (k : Nat), Consistent s → s.task = .emitWord k → step s = .next t → Completed t →
    t.out.length = headerLength t.cfg.outFmt + 8 * t.count ∧
    (t.records.filterMap fun r => if isInsn r then recordAddr r else none) = List.range t.count

/-! ### The decoder's stages -/

/-- 47_decoder.md rule R310: in the native format a stream is accepted exactly when it begins with the header of its own
length and the rest is whole words; in the raw formats exactly when it is whole words; every other stream is `E19` before
any word is read. That `E19` has no location is the model's choice (notes/assumptions/8.md). -/
def Obligations.MalformedStreamIsRefused : Prop :=
  ∀ (s : State) (bs : List Byte), s.task = .ingest bs → s.cfg.params = Params.default →
    let whole (n : Nat) : State := { s with count := n / 8, task := .unpack (bs.drop (bs.length - n)) }
    let accepted : Prop := match s.cfg.outFmt with
      | .b43 => ∃ b4 b5 b6 b7 body, bs = [0x75, 0x01, 0x00, 0x00, b4, b5, b6, b7] ++ body ∧
          ((b4.toNat * 256 + b5.toNat) * 256 + b6.toNat) * 256 + b7.toNat = body.length ∧ body.length % 8 = 0
      | .rawBe32 => bs.length % 8 = 0
      | .rawLe32 => bs.length % 8 = 0
    (accepted → step s = .next (whole (bs.length - headerLength s.cfg.outFmt))) ∧
    (¬ accepted → ∃ text, step s = .next (s.raise .E19 (.text text) .none))

/-- 47_decoder.md rule R322: of markers in increasing order, the one at place `j` is named `L` and `j`; two markers never
share a name; the order in which targets were found does not matter. -/
def Obligations.LabelsAreNamedInAddressOrder : Prop :=
  ∀ ts : List Nat, ts.Pairwise (· < ·) →
    (∀ j t, ts[j]? = some t → labelName ts t = "L" ++ Nat.repr j) ∧
    (∀ t u, t ∈ ts → u ∈ ts → labelName ts t = labelName ts u → t = u) ∧
    ∀ t u, insertTarget t (insertTarget u ts) = insertTarget u (insertTarget t ts)

/-- 47_decoder.md rules R320, R323, R324: the stream begins with the two directives and the entry label; then each address
gives its label, where it has one, and its instruction, whatever it is, with the target of every jump-class form as an
Absolute reference to that target's label, every other operand and every other form unchanged; after the last address the
run is complete. -/
def Obligations.StatementStreamIsBuiltInOrder : Prop :=
  (∀ (s : State) (a : Arch), s.cfg.arch = some a → s.task = .nameLabels →
    step s = .next { s with
      stmts := [.arch (match a with | .rev5 => 5 | .rev15 => 15), .start "entry", .label "entry"]
      task := .build 0 }) ∧
  (∀ (s : State) (k : Nat), s.task = .build k →
    (∀ i, s.decoded[k]? = some (k, i) → step s = .next { s with
      stmts := s.stmts ++ (if k ∈ s.targets then [.label (labelName s.targets k)] else []) ++
        [.insn k (Statements.mapTarget (nameTarget s.targets) i)]
      task := .build (k + 1) }) ∧
    (s.decoded[k]? = none → step s = .next { s with outValid := true, task := .idle })) ∧
  (∀ (ts : List Nat) (t : Nat) (m n c x y lr : Operand), ∀ mk ∈ targetForms m n c x y lr,
    Statements.mapTarget (nameTarget ts) (mk (.address t)) = mk (.labelRef (labelName ts t) .absolute)) ∧
  ∀ (ts : List Nat) (i : Instr), (∀ m n c x y lr, ∀ mk ∈ targetForms m n c x y lr, ∀ t, i ≠ mk (.address t)) →
    Statements.mapTarget (nameTarget ts) i = i

/-- 47_decoder.md rules R324, R345: when a decoder run completes, its instruction statements carry the addresses 0, 1, …,
N − 1 in stream order. -/
def Obligations.CompletedStreamHasEveryAddressOnce : Prop :=
  ∀ (s t : State) (k : Nat), Consistent s → s.task = .build k → step s = .next t → Completed t →
    streamAddresses t.stmts = List.range t.count

/-! ### The initvals serializer -/

/-- 48_initvals.md rules R353 to R358 with the default MMIO addresses and the default layout of the SHM control word: the raw
writes of each operation. For an unaligned `SHM32` at the offset 0xFFFE the second control word, of the offset 0x10000, is
deduced (notes/assumptions/15.md). -/
def Obligations.InitvalOperationsExpand : Prop :=
  ∀ routing off v : Nat,
    expandOp {} {} (.mmio16 off v) = [⟨off, 2, v⟩] ∧ expandOp {} {} (.mmio32 off v) = [⟨off, 4, v⟩] ∧
    expandOp {} {} (.phy off v) = [⟨0x3FC, 2, off⟩, ⟨0x3FE, 2, v⟩] ∧
    expandOp {} {} (.radio off v) = [⟨0x3F6, 2, off⟩, ⟨0x3FA, 2, v⟩] ∧
    expandOp {} {} (.tram off v) = [⟨0x130, 4, off⟩, ⟨0x134, 4, v⟩] ∧
    (off < 65536 → routing < 256 → v < 2 ^ 32 →
      (off % 4 = 0 →
        expandOp {} {} (.shm16 routing off v) = [⟨0x160, 4, routing * 65536 + off / 4⟩, ⟨0x164, 2, v⟩] ∧
        expandOp {} {} (.shm32 routing off v) = [⟨0x160, 4, routing * 65536 + off / 4⟩, ⟨0x164, 4, v⟩]) ∧
      (off % 4 = 2 →
        expandOp {} {} (.shm16 routing off v) = [⟨0x160, 4, routing * 65536 + off / 4⟩, ⟨0x166, 2, v⟩] ∧
        expandOp {} {} (.shm32 routing off v) =
          [⟨0x160, 4, routing * 65536 + off / 4⟩, ⟨0x166, 2, v % 65536⟩,
            ⟨0x160, 4, routing * 65536 + (off / 4 + 1)⟩, ⟨0x164, 2, v / 65536⟩]))

/-- 48_initvals.md rules R350, R351, R359: an operation all of whose arguments pass is expanded and appended; any other
stops, at its index, with the first argument in column order that does not pass: `E20` with one that is too wide, `E21`
with an odd SHM offset. -/
def Obligations.InitvalArgumentsAreChecked : Prop :=
  ∀ (s : State) (op : InitvalOp) (rest : List InitvalOp) (j : Nat), s.task = .expand (op :: rest) j →
    ((∀ x ∈ argumentChecks op, x.1 = true) → step s = .next { s with
      writes := s.writes ++ expandOp s.cfg.params.mmio s.cfg.params.shmControl op, task := .expand rest (j + 1) }) ∧
    ∀ (n : Nat) (c : ECode) (v : Nat), (argumentChecks op)[n]? = some (false, c, v) → (∀ x ∈ (argumentChecks op).take n, x.1 = true) →
      step s = .next (s.raise c (.value v) (.op j))

/-- 48_initvals.md rule R364, in both formats: the check begins when every operation is expanded, comes to every raw write
in turn, and ends before the first byte is emitted; a write at an offset above 0x7FFF is `E11` at its index, 0x7FFF is
accepted; only the writes of `MMIO16` and `MMIO32` can have such an offset. -/
def Obligations.InitvalOffsetLimit : Prop :=
  (∀ (s : State) (k : Nat), s.cfg.params = Params.default →
    (s.task = .expand [] k → step s = .next { s with task := .checkOffset 0 }) ∧
    (s.task = .checkOffset k →
      (∀ w, s.writes[k]? = some w → w.off ≤ 0x7FFF → step s = .next { s with task := .checkOffset (k + 1) }) ∧
      (∀ w, s.writes[k]? = some w → 0x7FFF < w.off → step s = .next (s.raise .E11 (.value w.off) (.write k))) ∧
      (s.writes[k]? = none → step s = .next { s with task := .ivsHead }))) ∧
  ∀ op : InitvalOp, (∀ off v, op ≠ .mmio16 off v) → (∀ off v, op ≠ .mmio32 off v) →
    ∀ w ∈ expandOp {} {} op, w.off ≤ 0x7FFF

/-- 48_initvals.md rules R360 to R363: a legacy list begins with its header (type, version, two zeros, the number of raw
writes most significant byte first), a raw one with nothing; then each raw write in turn is emitted as its record in the
selected format, and the raw format ends with its terminator. The legacy record of a 16-bit or 32-bit write, read back
most significant byte first, is the offset with bit 15 as the size flag and then the value; the raw record, read back
least significant byte first, is the offset, the size and the value in 32 bits. That the number of writes is cut to 32
bits for 2^32 writes and more is deduced (notes/assumptions/14.md). -/
def Obligations.InitvalRecordsReadBack : Prop :=
  (∀ (s : State) (k : Nat),
    (s.task = .ivsHead → s.cfg.params = Params.default →
      let n := s.writes.length
      let head : List Byte := [0x69, 0x01, 0, 0, BitVec.ofNat 8 (n / 16777216), BitVec.ofNat 8 (n / 65536),
        BitVec.ofNat 8 (n / 256), BitVec.ofNat 8 n]
      step s = .next { s with out := s.out ++ (if s.cfg.ivFmt = .legacy then head else []), task := .ivsRecord 0 }) ∧
    (∀ w, s.task = .ivsRecord k → s.writes[k]? = some w →
      step s = .next { s with
        out := s.out ++ (if s.cfg.ivFmt = .legacy then legacyRecord w else rawRecord w), task := .ivsRecord (k + 1) }) ∧
    (s.task = .ivsRecord k → s.writes[k]? = none →
      step s = .next { s with
        out := s.out ++ (if s.cfg.ivFmt = .legacy then [] else [0xFF, 0xFF, 0, 0, 0, 0, 0, 0])
        outValid := true
        task := .idle })) ∧
  ∀ off v : Nat, off ≤ 0x7FFF →
    (v < 2 ^ 16 → (legacyRecord ⟨off, 2, v⟩).length = 4 ∧ Decode.readBe ((legacyRecord ⟨off, 2, v⟩).take 2) = off ∧
      Decode.readBe ((legacyRecord ⟨off, 2, v⟩).drop 2) = v) ∧
    (v < 2 ^ 32 → (legacyRecord ⟨off, 4, v⟩).length = 6 ∧
      Decode.readBe ((legacyRecord ⟨off, 4, v⟩).take 2) = off + 0x8000 ∧
      Decode.readBe ((legacyRecord ⟨off, 4, v⟩).drop 2) = v) ∧
    ∀ size : Nat, size = 2 ∨ size = 4 → v < 2 ^ (8 * size) →
      (rawRecord ⟨off, size, v⟩).length = 8 ∧ Decode.readLe ((rawRecord ⟨off, size, v⟩).take 2) = off ∧
      Decode.readLe (((rawRecord ⟨off, size, v⟩).drop 2).take 2) = size ∧
      Decode.readLe ((rawRecord ⟨off, size, v⟩).drop 4) = v

/-- 48_initvals.md rules R363, R365: when a serializer run completes, a legacy list has `8 + Σ (4 if size = 2 else 6)`
bytes, a raw one `8 × |ws| + 8` bytes ending in the terminator. -/
def Obligations.CompletedInitvalsLength : Prop :=
  ∀ (s t : State) (k : Nat), Consistent s → s.task = .ivsRecord k → step s = .next t → Completed t →
    match t.cfg.ivFmt with
    | .legacy => t.out.length = 8 + (t.writes.map fun w => if w.size = 2 then 4 else 6).sum
    | .raw => t.out.length = 8 * t.writes.length + 8 ∧
        t.out.drop (8 * t.writes.length) = [0xFF, 0xFF, 0, 0, 0, 0, 0, 0]

/-! ### Whole-machine rules -/

/-- The state at reset is consistent. -/
def Obligations.ResetStateIsConsistent : Prop := Consistent State.reset

/-- Every step keeps the consistency of a state, for every state and every input: the status, the order of the markers,
the addresses of records and statements, the lengths of the outputs, the width of every ingested word (10_state.md rules
R42, R44; 45_resolution.md rules R264, R273; 20_memory.md rule R67; 47_decoder.md rules R312, R320, R324). The parameters
are kept (10_state.md rule R30), so that it holds along a run. -/
def Obligations.StepKeepsConsistency : Prop :=
  ∀ s t : State, s.cfg.params = Params.default → Consistent s → step s = .next t →
    Consistent t ∧ t.cfg.params = s.cfg.params

/-- 60_exceptions.md rules R381, R390: the block has no other stop than the fatal error it records. A step never faults
and is never refused, at any state: a fatal error is a next state. -/
def Obligations.EveryStepGoesOn : Prop := ∀ s : State, StepGoesOn s

/-- 70_reset_and_hazards.md rules R410, R420: two runs that start from the same input and configuration stay the same,
step by step, in everything the block reports, whatever an earlier run left behind and whatever the unspecified values
are. -/
def Obligations.RunsOnTheSameInputAgree : Prop :=
  (∀ (s t : State) (r : Request) (rest rest' : List Request), s.task = .idle → t.task = .idle →
    (∃ stmts, r = .runEnc stmts) ∨ (∃ a bytes, r = .runDec a bytes) ∨ (∃ name ops, r = .runIvs name ops) →
    s.requests = r :: rest → t.requests = r :: rest' → { s.cfg with arch := none } = { t.cfg with arch := none } →
    ∃ s' t', step s = .next s' ∧ step t = .next t' ∧ SameRun s' t') ∧
  ∀ s t : State, s.task ≠ .idle → SameRun s t → ∃ s' t', step s = .next s' ∧ step t = .next t' ∧ SameRun s' t'

/-- 45_resolution.md rule R270: a pass beyond `RESOLVE_CAP` is `E12`; with `RESOLVE_CAP = 2` no step of a consistent state
raises `E12`, so neither the cap nor any other internal check (60_exceptions.md rule R386) is ever reached. That `E12` has
no location is the model's choice (notes/assumptions/8.md). -/
def Obligations.ResolutionCapIsNeverReached : Prop :=
  (∀ s : State, s.task = .startPass → s.cfg.params.resolveCap < s.passes + 1 →
    ∃ t, step s = .next t ∧ t.fatal = some ⟨.E12, .text "address resolution did not converge", .none⟩ ∧
      t.outValid = false ∧ t.task = .idle) ∧
  ∀ s t : State, s.cfg.params = Params.default → Consistent s → s.task ≠ .idle → step s = .next t →
    ∀ d, t.fatal = some d → d.code ≠ .E12

/-- 10_state.md rule R30, 70_reset_and_hazards.md rule R411: the host's write of OUTFMT, IVFMT or DEC_TYPED_RAW sets that
field of `CFG`, changes nothing else and starts no run; it is taken only at rest: no step of a running unit takes a
request or writes one of these fields, and the revision is the one field of `CFG` it writes. -/
def Obligations.HostWritesTheConfiguration : Prop :=
  (∀ (s : State) (rest : List Request), s.task = .idle →
    (∀ f, s.requests = .setOutFmt f :: rest → step s = .next { s with cfg := { s.cfg with outFmt := f }, requests := rest }) ∧
    (∀ f, s.requests = .setIvFmt f :: rest → step s = .next { s with cfg := { s.cfg with ivFmt := f }, requests := rest }) ∧
    (∀ b, s.requests = .setTypedRaw b :: rest →
      step s = .next { s with cfg := { s.cfg with decTypedRaw := b }, requests := rest })) ∧
  ∀ s t : State, s.task ≠ .idle → step s = .next t →
    t.requests = s.requests ∧ t.cfg = { s.cfg with arch := t.cfg.arch }
end

