-- ==== Sys2Proof/Laws/State.lean ====
section
/-! SUPPORT. One lemma per field per update of the state, each true by definition, so that no proof unfolds a record
update. -/

namespace Sys2Proof.Laws.State

open Sys2Proof Sys2Proof.Machine

variable (s : State)

/-! ### `State.warn` -/

@[simp] theorem warn_cfg (c : WCode) (i : Info) (l : Loc) :
    (s.warn c i l).cfg = s.cfg := rfl

@[simp] theorem warn_records (c : WCode) (i : Info) (l : Loc) :
    (s.warn c i l).records = s.records := rfl

@[simp] theorem warn_entry (c : WCode) (i : Info) (l : Loc) :
    (s.warn c i l).entry = s.entry := rfl

@[simp] theorem warn_passes (c : WCode) (i : Info) (l : Loc) :
    (s.warn c i l).passes = s.passes := rfl

@[simp] theorem warn_addr (c : WCode) (i : Info) (l : Loc) :
    (s.warn c i l).addr = s.addr := rfl

@[simp] theorem warn_count (c : WCode) (i : Info) (l : Loc) :
    (s.warn c i l).count = s.count := rfl

@[simp] theorem warn_words (c : WCode) (i : Info) (l : Loc) :
    (s.warn c i l).words = s.words := rfl

@[simp] theorem warn_decoded (c : WCode) (i : Info) (l : Loc) :
    (s.warn c i l).decoded = s.decoded := rfl

@[simp] theorem warn_targets (c : WCode) (i : Info) (l : Loc) :
    (s.warn c i l).targets = s.targets := rfl

@[simp] theorem warn_stmts (c : WCode) (i : Info) (l : Loc) :
    (s.warn c i l).stmts = s.stmts := rfl

@[simp] theorem warn_writes (c : WCode) (i : Info) (l : Loc) :
    (s.warn c i l).writes = s.writes := rfl

@[simp] theorem warn_fatal (c : WCode) (i : Info) (l : Loc) :
    (s.warn c i l).fatal = s.fatal := rfl

@[simp] theorem warn_warnings (c : WCode) (i : Info) (l : Loc) :
    (s.warn c i l).warnings = s.warnings ++ [⟨c, i, l⟩] := rfl

@[simp] theorem warn_out (c : WCode) (i : Info) (l : Loc) :
    (s.warn c i l).out = s.out := rfl

@[simp] theorem warn_outValid (c : WCode) (i : Info) (l : Loc) :
    (s.warn c i l).outValid = s.outValid := rfl

@[simp] theorem warn_task (c : WCode) (i : Info) (l : Loc) :
    (s.warn c i l).task = s.task := rfl

@[simp] theorem warn_requests (c : WCode) (i : Info) (l : Loc) :
    (s.warn c i l).requests = s.requests := rfl

@[simp] theorem warn_freeCount (c : WCode) (i : Info) (l : Loc) :
    (s.warn c i l).freeCount = s.freeCount := rfl

/-! ### `State.raise` -/

@[simp] theorem raise_cfg (c : ECode) (i : Info) (l : Loc) :
    (s.raise c i l).cfg = s.cfg := rfl

@[simp] theorem raise_records (c : ECode) (i : Info) (l : Loc) :
    (s.raise c i l).records = s.records := rfl

@[simp] theorem raise_entry (c : ECode) (i : Info) (l : Loc) :
    (s.raise c i l).entry = s.entry := rfl

@[simp] theorem raise_passes (c : ECode) (i : Info) (l : Loc) :
    (s.raise c i l).passes = s.passes := rfl

@[simp] theorem raise_addr (c : ECode) (i : Info) (l : Loc) :
    (s.raise c i l).addr = s.addr := rfl

@[simp] theorem raise_count (c : ECode) (i : Info) (l : Loc) :
    (s.raise c i l).count = s.count := rfl

@[simp] theorem raise_words (c : ECode) (i : Info) (l : Loc) :
    (s.raise c i l).words = s.words := rfl

@[simp] theorem raise_decoded (c : ECode) (i : Info) (l : Loc) :
    (s.raise c i l).decoded = s.decoded := rfl

@[simp] theorem raise_targets (c : ECode) (i : Info) (l : Loc) :
    (s.raise c i l).targets = s.targets := rfl

@[simp] theorem raise_stmts (c : ECode) (i : Info) (l : Loc) :
    (s.raise c i l).stmts = if s.task.engine = some .dec then Config.freeStmts s.freeCount else s.stmts := rfl

@[simp] theorem raise_writes (c : ECode) (i : Info) (l : Loc) :
    (s.raise c i l).writes = s.writes := rfl

@[simp] theorem raise_fatal (c : ECode) (i : Info) (l : Loc) :
    (s.raise c i l).fatal = some ⟨c, i, l⟩ := rfl

@[simp] theorem raise_warnings (c : ECode) (i : Info) (l : Loc) :
    (s.raise c i l).warnings = s.warnings := rfl

@[simp] theorem raise_out (c : ECode) (i : Info) (l : Loc) :
    (s.raise c i l).out = if s.task.engine = some .dec then s.out else Config.freeOut s.freeCount := rfl

@[simp] theorem raise_outValid (c : ECode) (i : Info) (l : Loc) :
    (s.raise c i l).outValid = false := rfl

@[simp] theorem raise_task (c : ECode) (i : Info) (l : Loc) :
    (s.raise c i l).task = .idle := rfl

@[simp] theorem raise_requests (c : ECode) (i : Info) (l : Loc) :
    (s.raise c i l).requests = s.requests := rfl

@[simp] theorem raise_freeCount (c : ECode) (i : Info) (l : Loc) :
    (s.raise c i l).freeCount = s.freeCount + 1 := rfl

/-! ### `State.emit` -/

@[simp] theorem emit_cfg (bs : List Byte) :
    (s.emit bs).cfg = s.cfg := rfl

@[simp] theorem emit_records (bs : List Byte) :
    (s.emit bs).records = s.records := rfl

@[simp] theorem emit_entry (bs : List Byte) :
    (s.emit bs).entry = s.entry := rfl

@[simp] theorem emit_passes (bs : List Byte) :
    (s.emit bs).passes = s.passes := rfl

@[simp] theorem emit_addr (bs : List Byte) :
    (s.emit bs).addr = s.addr := rfl

@[simp] theorem emit_count (bs : List Byte) :
    (s.emit bs).count = s.count := rfl

@[simp] theorem emit_words (bs : List Byte) :
    (s.emit bs).words = s.words := rfl

@[simp] theorem emit_decoded (bs : List Byte) :
    (s.emit bs).decoded = s.decoded := rfl

@[simp] theorem emit_targets (bs : List Byte) :
    (s.emit bs).targets = s.targets := rfl

@[simp] theorem emit_stmts (bs : List Byte) :
    (s.emit bs).stmts = s.stmts := rfl

@[simp] theorem emit_writes (bs : List Byte) :
    (s.emit bs).writes = s.writes := rfl

@[simp] theorem emit_fatal (bs : List Byte) :
    (s.emit bs).fatal = s.fatal := rfl

@[simp] theorem emit_warnings (bs : List Byte) :
    (s.emit bs).warnings = s.warnings := rfl

@[simp] theorem emit_out (bs : List Byte) :
    (s.emit bs).out = s.out ++ bs := rfl

@[simp] theorem emit_outValid (bs : List Byte) :
    (s.emit bs).outValid = s.outValid := rfl

@[simp] theorem emit_task (bs : List Byte) :
    (s.emit bs).task = s.task := rfl

@[simp] theorem emit_requests (bs : List Byte) :
    (s.emit bs).requests = s.requests := rfl

@[simp] theorem emit_freeCount (bs : List Byte) :
    (s.emit bs).freeCount = s.freeCount := rfl

/-! ### `State.complete` -/

@[simp] theorem complete_cfg  :
    (s.complete).cfg = s.cfg := rfl

@[simp] theorem complete_records  :
    (s.complete).records = s.records := rfl

@[simp] theorem complete_entry  :
    (s.complete).entry = s.entry := rfl

@[simp] theorem complete_passes  :
    (s.complete).passes = s.passes := rfl

@[simp] theorem complete_addr  :
    (s.complete).addr = s.addr := rfl

@[simp] theorem complete_count  :
    (s.complete).count = s.count := rfl

@[simp] theorem complete_words  :
    (s.complete).words = s.words := rfl

@[simp] theorem complete_decoded  :
    (s.complete).decoded = s.decoded := rfl

@[simp] theorem complete_targets  :
    (s.complete).targets = s.targets := rfl

@[simp] theorem complete_stmts  :
    (s.complete).stmts = s.stmts := rfl

@[simp] theorem complete_writes  :
    (s.complete).writes = s.writes := rfl

@[simp] theorem complete_fatal  :
    (s.complete).fatal = s.fatal := rfl

@[simp] theorem complete_warnings  :
    (s.complete).warnings = s.warnings := rfl

@[simp] theorem complete_out  :
    (s.complete).out = s.out := rfl

@[simp] theorem complete_outValid  :
    (s.complete).outValid = true := rfl

@[simp] theorem complete_task  :
    (s.complete).task = .idle := rfl

@[simp] theorem complete_requests  :
    (s.complete).requests = s.requests := rfl

@[simp] theorem complete_freeCount  :
    (s.complete).freeCount = s.freeCount := rfl

/-! ### `State.newRun` -/

@[simp] theorem newRun_cfg  :
    (s.newRun).cfg = { s.cfg with arch := none } := rfl

@[simp] theorem newRun_records  :
    (s.newRun).records = [] := rfl

@[simp] theorem newRun_entry  :
    (s.newRun).entry = none := rfl

@[simp] theorem newRun_passes  :
    (s.newRun).passes = 0 := rfl

@[simp] theorem newRun_addr  :
    (s.newRun).addr = Config.freeAddr s.freeCount := rfl

@[simp] theorem newRun_count  :
    (s.newRun).count = 0 := rfl

@[simp] theorem newRun_words  :
    (s.newRun).words = [] := rfl

@[simp] theorem newRun_decoded  :
    (s.newRun).decoded = [] := rfl

@[simp] theorem newRun_targets  :
    (s.newRun).targets = [] := rfl

@[simp] theorem newRun_stmts  :
    (s.newRun).stmts = [] := rfl

@[simp] theorem newRun_writes  :
    (s.newRun).writes = [] := rfl

@[simp] theorem newRun_fatal  :
    (s.newRun).fatal = none := rfl

@[simp] theorem newRun_warnings  :
    (s.newRun).warnings = [] := rfl

@[simp] theorem newRun_out  :
    (s.newRun).out = [] := rfl

@[simp] theorem newRun_outValid  :
    (s.newRun).outValid = false := rfl

@[simp] theorem newRun_task  :
    (s.newRun).task = .idle := rfl

@[simp] theorem newRun_requests  :
    (s.newRun).requests = s.requests := rfl

@[simp] theorem newRun_freeCount  :
    (s.newRun).freeCount = s.freeCount + 1 := rfl

/-! ### `State.atWord` -/

@[simp] theorem atWord_cfg (a : Arch) (w : Word) :
    (s.atWord a w).cfg = { s.cfg with arch := some a } := rfl

@[simp] theorem atWord_records (a : Arch) (w : Word) :
    (s.atWord a w).records = s.records := rfl

@[simp] theorem atWord_entry (a : Arch) (w : Word) :
    (s.atWord a w).entry = s.entry := rfl

@[simp] theorem atWord_passes (a : Arch) (w : Word) :
    (s.atWord a w).passes = s.passes := rfl

@[simp] theorem atWord_addr (a : Arch) (w : Word) :
    (s.atWord a w).addr = s.addr := rfl

@[simp] theorem atWord_count (a : Arch) (w : Word) :
    (s.atWord a w).count = 1 := rfl

@[simp] theorem atWord_words (a : Arch) (w : Word) :
    (s.atWord a w).words = [w] := rfl

@[simp] theorem atWord_decoded (a : Arch) (w : Word) :
    (s.atWord a w).decoded = [] := rfl

@[simp] theorem atWord_targets (a : Arch) (w : Word) :
    (s.atWord a w).targets = [] := rfl

@[simp] theorem atWord_stmts (a : Arch) (w : Word) :
    (s.atWord a w).stmts = s.stmts := rfl

@[simp] theorem atWord_writes (a : Arch) (w : Word) :
    (s.atWord a w).writes = s.writes := rfl

@[simp] theorem atWord_fatal (a : Arch) (w : Word) :
    (s.atWord a w).fatal = s.fatal := rfl

@[simp] theorem atWord_warnings (a : Arch) (w : Word) :
    (s.atWord a w).warnings = s.warnings := rfl

@[simp] theorem atWord_out (a : Arch) (w : Word) :
    (s.atWord a w).out = s.out := rfl

@[simp] theorem atWord_outValid (a : Arch) (w : Word) :
    (s.atWord a w).outValid = s.outValid := rfl

@[simp] theorem atWord_task (a : Arch) (w : Word) :
    (s.atWord a w).task = .classify 0 := rfl

@[simp] theorem atWord_requests (a : Arch) (w : Word) :
    (s.atWord a w).requests = s.requests := rfl

@[simp] theorem atWord_freeCount (a : Arch) (w : Word) :
    (s.atWord a w).freeCount = s.freeCount := rfl

/-! ### `State.appendInsn` -/

@[simp] theorem appendInsn_cfg (x : Emitted) (e : Bool) (l : Option Nat) :
    (s.appendInsn x e l).cfg = s.cfg := by
  unfold State.appendInsn; split <;> simp

@[simp] theorem appendInsn_records (x : Emitted) (e : Bool) (l : Option Nat) :
    (s.appendInsn x e l).records = s.records ++ [x.record e l] := by
  unfold State.appendInsn; split <;> simp

@[simp] theorem appendInsn_entry (x : Emitted) (e : Bool) (l : Option Nat) :
    (s.appendInsn x e l).entry = s.entry := by
  unfold State.appendInsn; split <;> simp

@[simp] theorem appendInsn_passes (x : Emitted) (e : Bool) (l : Option Nat) :
    (s.appendInsn x e l).passes = s.passes := by
  unfold State.appendInsn; split <;> simp

@[simp] theorem appendInsn_addr (x : Emitted) (e : Bool) (l : Option Nat) :
    (s.appendInsn x e l).addr = s.addr := by
  unfold State.appendInsn; split <;> simp

@[simp] theorem appendInsn_count (x : Emitted) (e : Bool) (l : Option Nat) :
    (s.appendInsn x e l).count = s.count := by
  unfold State.appendInsn; split <;> simp

@[simp] theorem appendInsn_words (x : Emitted) (e : Bool) (l : Option Nat) :
    (s.appendInsn x e l).words = s.words := by
  unfold State.appendInsn; split <;> simp

@[simp] theorem appendInsn_decoded (x : Emitted) (e : Bool) (l : Option Nat) :
    (s.appendInsn x e l).decoded = s.decoded := by
  unfold State.appendInsn; split <;> simp

@[simp] theorem appendInsn_targets (x : Emitted) (e : Bool) (l : Option Nat) :
    (s.appendInsn x e l).targets = s.targets := by
  unfold State.appendInsn; split <;> simp

@[simp] theorem appendInsn_stmts (x : Emitted) (e : Bool) (l : Option Nat) :
    (s.appendInsn x e l).stmts = s.stmts := by
  unfold State.appendInsn; split <;> simp

@[simp] theorem appendInsn_writes (x : Emitted) (e : Bool) (l : Option Nat) :
    (s.appendInsn x e l).writes = s.writes := by
  unfold State.appendInsn; split <;> simp

@[simp] theorem appendInsn_fatal (x : Emitted) (e : Bool) (l : Option Nat) :
    (s.appendInsn x e l).fatal = s.fatal := by
  unfold State.appendInsn; split <;> simp

@[simp] theorem appendInsn_warnings (x : Emitted) (e : Bool) (l : Option Nat) :
    (s.appendInsn x e l).warnings =
      s.warnings ++ (if warnsReturnAfterJump s.records x.mnem then [⟨.W4, .location (sourceLoc l), sourceLoc l⟩] else []) := by
  unfold State.appendInsn; split <;> simp

@[simp] theorem appendInsn_out (x : Emitted) (e : Bool) (l : Option Nat) :
    (s.appendInsn x e l).out = s.out := by
  unfold State.appendInsn; split <;> simp

@[simp] theorem appendInsn_outValid (x : Emitted) (e : Bool) (l : Option Nat) :
    (s.appendInsn x e l).outValid = s.outValid := by
  unfold State.appendInsn; split <;> simp

@[simp] theorem appendInsn_task (x : Emitted) (e : Bool) (l : Option Nat) :
    (s.appendInsn x e l).task = s.task := by
  unfold State.appendInsn; split <;> simp

@[simp] theorem appendInsn_requests (x : Emitted) (e : Bool) (l : Option Nat) :
    (s.appendInsn x e l).requests = s.requests := by
  unfold State.appendInsn; split <;> simp

@[simp] theorem appendInsn_freeCount (x : Emitted) (e : Bool) (l : Option Nat) :
    (s.appendInsn x e l).freeCount = s.freeCount := by
  unfold State.appendInsn; split <;> simp

end Sys2Proof.Laws.State
end

