-- ==== Sys2Proof/Laws/Delivery.lean ====
section
/-! SUPPORT. What the operations of delivery can do, each said once: the target markers, the link-register and constant
checks, the delivery of a word, and the fetch of one. -/

namespace Sys2Proof.Laws

open Sys2Proof Sys2Proof.Machine Sys2Proof.Safety

/-! ### Target markers -/

theorem mem_insertTarget {t u : Nat} {ts : List Nat} : u ∈ insertTarget t ts ↔ u = t ∨ u ∈ ts := by
  induction ts with
  | nil => simp [insertTarget]
  | cons v vs ih =>
    simp only [insertTarget]
    split
    · simp
    · split
      · rename_i h; subst h; simp
      · simp only [List.mem_cons, ih]; exact or_left_comm

theorem insertTarget_pairwise {t : Nat} {ts : List Nat} (h : ts.Pairwise (· < ·)) :
    (insertTarget t ts).Pairwise (· < ·) := by
  induction ts with
  | nil => simp [insertTarget]
  | cons v vs ih =>
    obtain ⟨hv, hvs⟩ := List.pairwise_cons.1 h
    simp only [insertTarget]
    split
    · rename_i hlt
      refine List.pairwise_cons.2 ⟨fun u hu => ?_, h⟩
      obtain rfl | hu := List.mem_cons.1 hu
      · exact hlt
      · exact Nat.lt_trans hlt (hv u hu)
    · split
      · exact h
      · refine List.pairwise_cons.2 ⟨fun u hu => ?_, ih hvs⟩
        obtain rfl | hu := mem_insertTarget.1 hu
        · omega
        · exact hv u hu

theorem recordTarget_none (k : Nat) (s : State) : recordTarget none k s = (s, true) := rfl

theorem recordTarget_inRange {t k : Nat} {s : State} (h : t < s.count) :
    recordTarget (some (.address t)) k s = ({ s with targets := insertTarget t s.targets }, true) := by
  simp [recordTarget, Nat.not_le.2 h]

theorem recordTarget_outOfRange {t k : Nat} {s : State} (h : s.count ≤ t) :
    recordTarget (some (.address t)) k s = (s.raise .E18 (.value t) (.word k), false) := by
  simp [recordTarget, h]

/-! ### Checks of fixed and link-register slots -/

theorem foldl_checkLr (x : Decode.WordFields) (k : Nat) (slots : List Nat) (s : State) :
    slots.foldl (checkLr x k) s =
      { s with warnings := s.warnings ++ logged (.word k) (lrWarnings s.cfg.params x slots) } := by
  induction slots generalizing s with
  | nil => simp [lrWarnings, logged]
  | cons i is ih =>
    rw [List.foldl_cons, ih]
    by_cases h : slotOf x i ∈ s.cfg.params.lrFields <;> simp [checkLr, lrWarnings, logged, h, State.warn]

theorem foldl_checkConst (m : String) (x : Decode.WordFields) (k : Nat) (cs : List (Nat × Nat)) (s : State) :
    cs.foldl (checkConst m x k) s =
      { s with warnings := s.warnings ++ logged (.word k) (constWarnings m x cs) } := by
  induction cs generalizing s with
  | nil => simp [constWarnings, logged]
  | cons c cs ih =>
    rw [List.foldl_cons, ih]
    by_cases h : slotOf x c.1 = c.2 <;> simp [checkConst, constWarnings, logged, h, State.warn]

/-! ### Delivery -/

/-- A delivery whose target check passes with the state `s2` appends the statement, after the warnings of the checks. -/
theorem deliver_ok {i : Instr} {r : Recipe} {k : Nat} {s s2 : State} {a : Arch} {w : Word} (ha : s.cfg.arch = some a)
    (hw : s.words[k]? = some w)
    (ht : recordTarget r.target k
      { s with warnings := s.warnings ++ logged (.word k) (lrWarnings s.cfg.params (Decode.unpack a w) r.lrSlots) } =
        (s2, true)) :
    deliver i r k s = { s2 with
      warnings := s2.warnings ++ logged (.word k)
        (constWarnings (Statements.spell (Statements.mnemonicOf i)) (Decode.unpack a w) r.consts)
      decoded := s2.decoded ++ [(k, i)]
      task := .classify (k + 1) } := by
  simp only [deliver, ha, hw, foldl_checkLr, ht, foldl_checkConst]

/-- A delivery whose target check fails stops with the state `s2` of that check. -/
theorem deliver_stops {i : Instr} {r : Recipe} {k : Nat} {s s2 : State} {a : Arch} {w : Word} (ha : s.cfg.arch = some a)
    (hw : s.words[k]? = some w)
    (ht : recordTarget r.target k
      { s with warnings := s.warnings ++ logged (.word k) (lrWarnings s.cfg.params (Decode.unpack a w) r.lrSlots) } =
        (s2, false)) :
    deliver i r k s = s2 := by
  simp only [deliver, ha, hw, foldl_checkLr, ht]

/-- A delivery without a word or a revision is a state the invariants forbid. -/
theorem deliver_internal {i : Instr} {r : Recipe} {k : Nat} {s : State} (h : s.cfg.arch = none ∨ s.words[k]? = none) :
    deliver i r k s = s.raiseInternal := by
  unfold deliver
  split
  · rename_i ha hw; simp [ha, hw] at h
  · rfl

/-! ### Fetching a word -/

theorem fetchWord_run {k : Nat} {s : State} {a : Arch} {w : Word} {i : Instr} (ha : s.cfg.arch = some a)
    (hw : s.words[k]? = some w) (hd : Decode.decode s.cfg.params s.cfg.decTypedRaw a w = .ok i) :
    fetchWord k s = .run i := by
  simp only [fetchWord, ha, hw, hd]

theorem fetchWord_end {k : Nat} {s : State} {a : Arch} (ha : s.cfg.arch = some a) (hw : s.words[k]? = none) :
    fetchWord k s = .done { s with task := .nameLabels } := by
  simp only [fetchWord, ha, hw]

end Sys2Proof.Laws
end

