-- ==== Sys2Proof/Laws/Operands.lean ====
section
/-! SUPPORT. What a generation can do, once for each shared operation: chaining (`Gen.bind`), each operand form of the
encoder (accepted: its field and its warnings; refused: one of its fatal codes and no warning), the pair of input slots. -/

namespace Sys2Proof.Laws.Operands

open Sys2Proof Sys2Proof.Machine Sys2Proof.Safety

/-- Warnings as the events of a generation. -/
def warnEvents (ws : List (WCode × Info)) : List Event := ws.map fun w => .warn w.1 w.2

@[simp] theorem warnEvents_nil : warnEvents [] = [] := rfl

@[simp] theorem warnEvents_append (us vs : List (WCode × Info)) :
    warnEvents (us ++ vs) = warnEvents us ++ warnEvents vs := by simp [warnEvents]

/-! ### Chaining -/

@[simp] theorem pure_bind {α β : Type} (x : α) (f : α → Gen β) : Gen.bind (.pure x) f = f x := by
  cases h : f x; simp [Gen.bind, Gen.pure, h]

@[simp] theorem ok_bind {α β : Type} (es : List Event) (x : α) (f : α → Gen β) :
    Gen.bind ⟨es, .ok x⟩ f = ⟨es ++ (f x).events, (f x).result⟩ := rfl

@[simp] theorem error_bind {α β : Type} (es : List Event) (e : Err) (f : α → Gen β) :
    Gen.bind ⟨es, .error e⟩ f = ⟨es, .error e⟩ := rfl

theorem warn_eq {α : Type} (c : WCode) (i : Info) (x : α) : Gen.warn c i x = ⟨warnEvents [(c, i)], .ok x⟩ := rfl

theorem pure_eq {α : Type} (x : α) : Gen.pure x = ⟨warnEvents [], .ok x⟩ := rfl

theorem fail_eq {α : Type} (c : ECode) (i : Info) : (Gen.fail c i : Gen α) = ⟨[], .error ⟨c, i⟩⟩ := rfl

theorem emit_eq (x : Emitted) : Gen.emit x = ⟨[.insn x], .ok ()⟩ := rfl

/-- An accepted generation: warnings `ws` and the value `x`. -/
def Accepts {α : Type} (g : Gen α) (ws : List (WCode × Info)) (x : α) : Prop := g = ⟨warnEvents ws, .ok x⟩

/-- A refused generation: a fatal error with one of the codes `cs`, after some warnings. -/
def Refuses {α : Type} (g : Gen α) (cs : List ECode) : Prop :=
  ∃ (ws : List (WCode × Info)) (e : Err), g = ⟨warnEvents ws, .error e⟩ ∧ e.code ∈ cs

theorem Accepts.bind {α β : Type} {g : Gen α} {ws : List (WCode × Info)} {x : α} (h : Accepts g ws x) (f : α → Gen β) :
    Gen.bind g f = ⟨warnEvents ws ++ (f x).events, (f x).result⟩ := by
  rw [h]; rfl

theorem Accepts.bind_accepts {α β : Type} {g : Gen α} {us vs : List (WCode × Info)} {x : α} {y : β} {f : α → Gen β}
    (h : Accepts g us x) (k : Accepts (f x) vs y) : Accepts (Gen.bind g f) (us ++ vs) y := by
  rw [Accepts, h.bind, k]; simp

theorem Accepts.bind_refuses {α β : Type} {g : Gen α} {us : List (WCode × Info)} {x : α} {cs : List ECode}
    {f : α → Gen β} (h : Accepts g us x) (k : Refuses (f x) cs) : Refuses (Gen.bind g f) cs := by
  obtain ⟨ws, e, he, hc⟩ := k
  exact ⟨us ++ ws, e, by rw [h.bind, he]; simp, hc⟩

theorem Refuses.bind {α β : Type} {g : Gen α} {cs : List ECode} (h : Refuses g cs) (f : α → Gen β) :
    Refuses (Gen.bind g f) cs := by
  obtain ⟨ws, e, he, hc⟩ := h
  exact ⟨ws, e, by rw [he]; rfl, hc⟩

theorem Refuses.mono {α : Type} {g : Gen α} {cs ds : List ECode} (h : Refuses g cs) (hs : cs ⊆ ds) : Refuses g ds := by
  obtain ⟨ws, e, he, hc⟩ := h
  exact ⟨ws, e, he, hs hc⟩

theorem accepts_pure {α : Type} (x : α) : Accepts (Gen.pure x) [] x := rfl

theorem accepts_warn {α : Type} (c : WCode) (i : Info) (x : α) : Accepts (Gen.warn c i x) [(c, i)] x := rfl

theorem refuses_fail {α : Type} {c : ECode} {i : Info} {cs : List ECode} (h : c ∈ cs) :
    Refuses (Gen.fail c i : Gen α) cs := ⟨[], ⟨c, i⟩, rfl, h⟩

/-! ### The operand forms -/

/-- The fatal codes of an operand slot (60_exceptions.md rule R387). -/
def slotCodes : List ECode := [.E7, .E13, .E15, .E16, .E22]

theorem and_mask (o n : Nat) : o &&& mask n = o % 2 ^ n := by
  simp [mask, Nat.and_two_pow_sub_one_eq_mod]

/-- Slot 0 or 1 accepts an admitted operand with its field and its warnings (30_encoding.md rules R88 to R94). -/
theorem encIn_accepts {p : Params} {a : Arch} {op : Operand} (h : WellFormed.okIn p a op = true) :
    Accepts (encIn p a op) (operandWarnings a op) (recordField p a op) := by
  cases op with
  | imm v => simp_all [WellFormed.okIn, encIn, encImm, operandWarnings, recordField, Decode.operandField, accepts_pure]
  | reg k n =>
    cases k <;> simp_all [WellFormed.okIn, encIn, encGpr, encSpr, operandWarnings, recordField, Decode.operandField]
    · rw [if_neg (by omega)]; exact accepts_pure _
    · rw [if_neg (by omega)]; exact accepts_pure _
  | direct o =>
    simp only [encIn, encDir, operandWarnings, recordField, Decode.operandField, and_mask]
    split
    · exact accepts_warn _ _ _
    · rw [Nat.mod_eq_of_lt (by omega)]; exact accepts_pure _
  | indirect o r =>
    simp only [WellFormed.okIn, decide_eq_true_eq] at h
    simp only [encIn, encInd, operandWarnings, recordField, Decode.operandField, and_mask]
    rw [if_neg (by omega)]
    refine Accepts.bind_accepts (x := ()) ?_ ?_
    · split
      · exact accepts_warn _ _ _
      · exact accepts_pure _
    · rw [← List.append_nil (if 2 ^ Config.indOffW ≤ o then [(WCode.W2, Info.value o)] else [])]
      refine Accepts.bind_accepts (x := o % 2 ^ Config.indOffW) ?_ (accepts_pure _)
      split
      · exact accepts_warn _ _ _
      · rw [Nat.mod_eq_of_lt (by omega)]; exact accepts_pure _
  | labelRef n d => exact accepts_pure _
  | address t => simp [WellFormed.okIn] at h
  | raw v =>
    simp only [WellFormed.okIn, decide_eq_true_eq] at h
    simp only [encIn, encRaw, operandWarnings, recordField, Decode.operandField]
    rw [if_neg (by omega)]; exact accepts_pure _
  | linkReg n => simp [WellFormed.okIn] at h
  | number v => simp [WellFormed.okIn] at h

/-- Slot 0 or 1 refuses every other operand, before any warning. -/
theorem encIn_refuses {p : Params} {a : Arch} {op : Operand} (h : WellFormed.okIn p a op = false) :
    (encIn p a op).events = [] ∧ ∃ e : Err, (encIn p a op).result = .error e ∧ e.code ∈ [ECode.E7, .E13, .E15, .E22] := by
  cases op with
  | imm v => simp_all [WellFormed.okIn, encIn, encImm, Gen.fail]
  | reg k n => cases k <;> simp_all [WellFormed.okIn, encIn, encGpr, encSpr, Gen.fail]
  | direct o => simp [WellFormed.okIn] at h
  | indirect o r => simp_all [WellFormed.okIn, encIn, encInd, Gen.fail]
  | labelRef n d => simp [WellFormed.okIn] at h
  | address t => simp [encIn, Gen.fail]
  | raw v => simp_all [WellFormed.okIn, encIn, encRaw, Gen.fail]
  | linkReg n => simp [encIn, Gen.fail]
  | number v => simp [encIn, Gen.fail]

theorem refuses_of_error {α : Type} {g : Gen α} {e : Err} {cs ds : List ECode} (h : g.events = []) (he : g.result = .error e)
    (hc : e.code ∈ cs) (hs : cs ⊆ ds) : Refuses g ds := by
  obtain ⟨es, r⟩ := g
  simp only at h he
  subst h he
  exact ⟨[], e, rfl, hs hc⟩

theorem encIn_refuses' {p : Params} {a : Arch} {op : Operand} (h : WellFormed.okIn p a op = false) :
    Refuses (encIn p a op) slotCodes := by
  obtain ⟨h1, e, h2, h3⟩ := encIn_refuses h
  exact refuses_of_error h1 h2 h3 (by decide)

/-- Slot 2 of an operand form (30_encoding.md rules R93, R108). -/
theorem encOut_accepts {p : Params} {a : Arch} {op : Operand} (h : WellFormed.okOut p a op = true) :
    Accepts (encOut p a op) (operandWarnings a op) (recordField p a op) := by
  cases op with
  | address t =>
    simp only [WellFormed.okOut, decide_eq_true_eq] at h
    simp only [encOut, encAddress, operandWarnings, recordField]
    rw [if_neg (by omega)]; exact accepts_pure _
  | _ => exact encIn_accepts (by simpa only [WellFormed.okOut] using h)

theorem encOut_refuses {p : Params} {a : Arch} {op : Operand} (h : WellFormed.okOut p a op = false) :
    Refuses (encOut p a op) slotCodes := by
  cases op with
  | address t =>
    simp only [WellFormed.okOut, decide_eq_false_iff_not] at h
    simp only [encOut, encAddress]
    rw [if_pos (by omega)]; exact refuses_fail (by decide)
  | _ => exact encIn_refuses' (by simpa only [WellFormed.okOut] using h)

/-- A jump target (41_extended.md rule R171). -/
theorem encTarget_accepts {p : Params} {a : Arch} {op : Operand} (h : WellFormed.okTarget a op = true) :
    Accepts (encTarget a op) [] (recordField p a op) := by
  cases op with
  | labelRef n d => exact accepts_pure _
  | address t =>
    simp only [WellFormed.okTarget, decide_eq_true_eq] at h
    simp only [encTarget, encAddress, recordField]
    rw [if_neg (by omega)]; exact accepts_pure _
  | raw v =>
    simp only [WellFormed.okTarget, decide_eq_true_eq] at h
    simp only [encTarget, encRaw, recordField, Decode.operandField]
    rw [if_neg (by omega)]; exact accepts_pure _
  | _ => simp [WellFormed.okTarget] at h

theorem encTarget_refuses {a : Arch} {op : Operand} (h : WellFormed.okTarget a op = false) :
    Refuses (encTarget a op) slotCodes := by
  cases op with
  | labelRef n d => simp [WellFormed.okTarget] at h
  | address t =>
    simp only [WellFormed.okTarget, decide_eq_false_iff_not] at h
    simp only [encTarget, encAddress]
    rw [if_pos (by omega)]; exact refuses_fail (by decide)
  | raw v =>
    simp only [WellFormed.okTarget, decide_eq_false_iff_not] at h
    simp only [encTarget, encRaw]
    rw [if_pos (by omega)]; exact refuses_fail (by decide)
  | _ => exact refuses_fail (by decide)

/-- A jump target draws no warning as an operand either. -/
theorem operandWarnings_target {a : Arch} {op : Operand} (h : WellFormed.okTarget a op = true) :
    operandWarnings a op = [] := by
  cases op <;> simp_all [WellFormed.okTarget, operandWarnings]

/-- A link-register position (43_call_ret_nap.md rule R230). -/
theorem encLr_accepts {p : Params} {a : Arch} {op : Operand} (h : WellFormed.okLr p a op = true) :
    Accepts (encLr p a op) [] (recordField p a op) := by
  cases op with
  | linkReg n =>
    simp only [WellFormed.okLr, decide_eq_true_eq] at h
    simp only [encLr, recordField, Decode.operandField, List.getElem?_eq_getElem h, List.getD_eq_getElem?_getD]
    exact accepts_pure _
  | raw v =>
    simp only [WellFormed.okLr, decide_eq_true_eq] at h
    simp only [encLr, encRaw, recordField, Decode.operandField]
    rw [if_neg (by omega)]; exact accepts_pure _
  | _ => simp [WellFormed.okLr] at h

theorem encLr_refuses {p : Params} {a : Arch} {op : Operand} (h : WellFormed.okLr p a op = false) :
    Refuses (encLr p a op) slotCodes := by
  cases op with
  | linkReg n =>
    simp only [WellFormed.okLr, decide_eq_false_iff_not] at h
    simp only [encLr, List.getElem?_eq_none (by omega : p.lrFields.length ≤ n)]
    exact refuses_fail (by decide)
  | raw v =>
    simp only [WellFormed.okLr, decide_eq_false_iff_not] at h
    simp only [encLr, encRaw]
    rw [if_pos (by omega)]; exact refuses_fail (by decide)
  | _ => exact refuses_fail (by decide)

/-- An auxiliary operand (41_extended.md rule R170). -/
theorem encAux_accepts {max : Nat} {op : Operand} (h : WellFormed.okAux max op = true) :
    Accepts (encAux max op) [] (Decode.auxValue op) ∧ Decode.auxValue op ≤ max := by
  cases op with
  | number v =>
    simp only [WellFormed.okAux, Bool.and_eq_true, decide_eq_true_eq] at h
    simp only [encAux, if_pos h, Decode.auxValue]
    exact ⟨accepts_pure _, by omega⟩
  | imm v =>
    simp only [WellFormed.okAux, Bool.and_eq_true, decide_eq_true_eq] at h
    have hv : v.toInt.toNat = v.toNat := by
      rw [BitVec.toInt_eq_toNat_cond] at h ⊢
      split <;> omega
    simp only [encAux, if_pos h, Decode.auxValue, hv]
    exact ⟨accepts_pure _, by omega⟩
  | _ => simp [WellFormed.okAux] at h

theorem encAux_refuses {max : Nat} {op : Operand} (h : WellFormed.okAux max op = false) :
    Refuses (encAux max op) [.E14, .E15] := by
  cases op with
  | number v =>
    simp only [WellFormed.okAux, ← Bool.decide_and, decide_eq_false_iff_not] at h
    simp only [encAux, if_neg h]; exact refuses_fail (by decide)
  | imm v =>
    simp only [WellFormed.okAux, ← Bool.decide_and, decide_eq_false_iff_not] at h
    simp only [encAux, if_neg h]; exact refuses_fail (by decide)
  | _ => exact refuses_fail (by decide)

/-! ### The pair of input slots -/

/-- Slots 0 and 1 with the co-occurrence rule (30_encoding.md rule R82). -/
theorem encPair_accepts {p : Params} {a : Arch} {x y : Operand} (h : WellFormed.okPair p a x y = true) :
    Accepts (encPair p a x y) (slotWarnings a [x, y]) (recordField p a x, recordField p a y) := by
  simp only [WellFormed.okPair, Bool.and_eq_true] at h
  obtain ⟨⟨hx, hy⟩, hp⟩ := h
  have hc : checkCooccur x y = .pure () := by
    simp only [WellFormed.pairOk, Bool.and_eq_true, Bool.not_eq_true'] at hp
    simp [checkCooccur, hp]
  have : slotWarnings a [x, y] = operandWarnings a x ++ (operandWarnings a y ++ []) := by simp [slotWarnings]
  rw [this, encPair]
  refine (encIn_accepts hx).bind_accepts ((encIn_accepts hy).bind_accepts ?_)
  rw [hc, pure_bind]; exact accepts_pure _

theorem encPair_refuses {p : Params} {a : Arch} {x y : Operand} (h : WellFormed.okPair p a x y = false) :
    Refuses (encPair p a x y) (.E5 :: .E6 :: slotCodes) := by
  cases hx : WellFormed.okIn p a x with
  | false => exact ((encIn_refuses' hx).mono (by simp)).bind _
  | true =>
    cases hy : WellFormed.okIn p a y with
    | false => exact (encIn_accepts hx).bind_refuses (((encIn_refuses' hy).mono (by simp)).bind _)
    | true =>
      refine (encIn_accepts hx).bind_refuses ((encIn_accepts hy).bind_refuses ?_)
      simp only [WellFormed.okPair, hx, hy, Bool.true_and, WellFormed.pairOk, Bool.and_eq_false_iff,
        Bool.not_eq_false'] at h
      unfold checkCooccur
      split
      · exact (refuses_fail (by simp)).bind _
      · rcases h with h | h
        · contradiction
        · rw [if_pos h]; exact (refuses_fail (by simp)).bind _

end Sys2Proof.Laws.Operands
end

