-- ==== Sys2Proof/Laws/Generation.lean ====
section
/-! SUPPORT. What the generation of each class of instructions can do (the record it appends with its warnings, or the fatal
codes it stops with), and what a generation does to the state. -/

namespace Sys2Proof.Laws.Generation

open Sys2Proof Sys2Proof.Machine Sys2Proof.Safety Sys2Proof.Laws.Operands

/-- A generation of one record: warnings `ws`, then the record `x`. -/
def Emits (g : Gen Unit) (ws : List (WCode × Info)) (x : Emitted) : Prop := g = ⟨warnEvents ws ++ [.insn x], .ok ()⟩

theorem emits_emit (x : Emitted) : Emits (.emit x) [] x := rfl

theorem bind_emits {α : Type} {g : Gen α} {us vs : List (WCode × Info)} {x : α} {e : Emitted} {f : α → Gen Unit}
    (h : Accepts g us x) (k : Emits (f x) vs e) : Emits (Gen.bind g f) (us ++ vs) e := by
  rw [Emits, h.bind, k]; simp

theorem bind_emits_nil {α : Type} {g : Gen α} {us : List (WCode × Info)} {x : α} {e : Emitted} {f : α → Gen Unit}
    (h : Accepts g us x) (k : Emits (f x) [] e) : Emits (Gen.bind g f) us e := by
  simpa using bind_emits h k

/-- Every fatal code of generation (60_exceptions.md rule R387). -/
def genCodes : List ECode := [.E5, .E6, .E7, .E8, .E13, .E14, .E15, .E16, .E22]

/-! ### The classes -/

theorem genStd3_emits {m : String} {opc : Opcodes → Opcode} {x y d : Operand} {p : Params} {a : Arch}
    (h : WellFormed.okStd3 p a x y d = true) :
    Emits (genStd3 m opc x y d p a) (slotWarnings a [x, y, d])
      ⟨m, opc p.opcodes, recordField p a x, recordField p a y, recordField p a d, false⟩ := by
  simp only [WellFormed.okStd3, Bool.and_eq_true] at h
  have : slotWarnings a [x, y, d] = slotWarnings a [x, y] ++ operandWarnings a d := by simp [slotWarnings]
  rw [this]
  exact bind_emits (encPair_accepts h.1) (bind_emits_nil (encOut_accepts h.2) (emits_emit _))

theorem genStd3_refuses {m : String} {opc : Opcodes → Opcode} {x y d : Operand} {p : Params} {a : Arch}
    (h : WellFormed.okStd3 p a x y d = false) : Refuses (genStd3 m opc x y d p a) genCodes := by
  simp only [WellFormed.okStd3, Bool.and_eq_false_iff] at h
  cases hp : WellFormed.okPair p a x y with
  | false => exact ((encPair_refuses hp).mono (by decide)).bind _
  | true =>
    refine (encPair_accepts hp).bind_refuses (((encOut_refuses ?_).mono (by decide)).bind _)
    simpa [hp] using h

theorem genTkip2_emits {m : String} {opc : Opcodes → Opcode} {x d : Operand} {p : Params} {a : Arch}
    (hx : WellFormed.okIn p a x = true) (hd : WellFormed.okOut p a d = true) :
    Emits (genTkip2 m opc x d p a) (slotWarnings a [x, d])
      ⟨m, opc p.opcodes, recordField p a x, .value p.constants.tkip1, recordField p a d, false⟩ := by
  have : slotWarnings a [x, d] = operandWarnings a x ++ operandWarnings a d := by simp [slotWarnings]
  rw [this]
  exact bind_emits (encIn_accepts hx) (bind_emits_nil (encOut_accepts hd) (emits_emit _))

theorem genTkip2_refuses {m : String} {opc : Opcodes → Opcode} {x d : Operand} {p : Params} {a : Arch}
    (h : (WellFormed.okIn p a x && WellFormed.okOut p a d) = false) : Refuses (genTkip2 m opc x d p a) genCodes := by
  cases hx : WellFormed.okIn p a x with
  | false => exact ((encIn_refuses' hx).mono (by decide)).bind _
  | true => exact (encIn_accepts hx).bind_refuses (((encOut_refuses (by simpa [hx] using h)).mono (by decide)).bind _)

/-- An extended opcode as a sum (30_encoding.md rule R101). -/
theorem extOpcode_eq {fam : Family} {m s : Nat} (hm : m ≤ 15) (hs : s ≤ 15) :
    Decode.extOpcode fam m s = BitVec.ofNat 12 (fam.toNat * 256 + m * 16 + s) := by
  unfold Decode.extOpcode
  congr 1
  have h1 : m <<< 4 ||| s = m * 16 + s := by
    rw [← Nat.shiftLeft_add_eq_or_of_lt (by omega), Nat.shiftLeft_eq]
  rw [Nat.or_assoc, h1, ← Nat.shiftLeft_add_eq_or_of_lt (by omega), Nat.shiftLeft_eq]
  omega

theorem condOpcode_eq {fam : Family} {c : Nat} (hc : c ≤ 255) :
    Decode.condOpcode fam c = BitVec.ofNat 12 (fam.toNat * 256 + c) := by
  unfold Decode.condOpcode
  rw [← Nat.shiftLeft_add_eq_or_of_lt (by omega), Nat.shiftLeft_eq]

theorem genExt_alu_emits {m : String} {fam : Opcodes → Family} {mo so x y z : Operand} {p : Params} {a : Arch}
    (hm : WellFormed.okAux 15 mo = true) (hs : WellFormed.okAux 15 so = true) (h : WellFormed.okStd3 p a x y z = true) :
    Emits (genExt m fam false mo so x y z p a) (slotWarnings a [x, y, z])
      ⟨m, Decode.extOpcode (fam p.opcodes) (Decode.auxValue mo) (Decode.auxValue so), recordField p a x,
        recordField p a y, recordField p a z, false⟩ := by
  simp only [WellFormed.okStd3, Bool.and_eq_true] at h
  have : slotWarnings a [x, y, z] = [] ++ ([] ++ (slotWarnings a [x, y] ++ operandWarnings a z)) := by simp [slotWarnings]
  rw [this]
  exact bind_emits (encAux_accepts hm).1 (bind_emits (encAux_accepts hs).1
    (bind_emits (encPair_accepts h.1) (bind_emits_nil (encOut_accepts h.2) (emits_emit _))))

theorem genExt_jump_emits {m : String} {fam : Opcodes → Family} {mo so x y z : Operand} {p : Params} {a : Arch}
    (hm : WellFormed.okAux 15 mo = true) (hs : WellFormed.okAux 15 so = true) (h : WellFormed.okCjmp p a x y z = true) :
    Emits (genExt m fam true mo so x y z p a) (slotWarnings a [x, y])
      ⟨m, Decode.extOpcode (fam p.opcodes) (Decode.auxValue mo) (Decode.auxValue so), recordField p a x,
        recordField p a y, recordField p a z, true⟩ := by
  simp only [WellFormed.okCjmp, Bool.and_eq_true] at h
  have : slotWarnings a [x, y] = [] ++ ([] ++ slotWarnings a [x, y]) := by simp
  rw [this]
  refine bind_emits (encAux_accepts hm).1 (bind_emits (encAux_accepts hs).1 ?_)
  exact bind_emits_nil (encPair_accepts h.1) (bind_emits (encTarget_accepts h.2) (emits_emit _))

theorem genExt_refuses {m : String} {fam : Opcodes → Family} {j : Bool} {mo so x y z : Operand} {p : Params} {a : Arch}
    (h : (WellFormed.okAux 15 mo && WellFormed.okAux 15 so && WellFormed.okPair p a x y &&
      (if j then WellFormed.okTarget a z else WellFormed.okOut p a z)) = false) :
    Refuses (genExt m fam j mo so x y z p a) genCodes := by
  cases hm : WellFormed.okAux 15 mo with
  | false => exact ((encAux_refuses hm).mono (by decide)).bind _
  | true =>
    refine (encAux_accepts hm).1.bind_refuses ?_
    cases hs : WellFormed.okAux 15 so with
    | false => exact ((encAux_refuses hs).mono (by decide)).bind _
    | true =>
      refine (encAux_accepts hs).1.bind_refuses ?_
      cases hp : WellFormed.okPair p a x y with
      | false => exact ((encPair_refuses hp).mono (by decide)).bind _
      | true =>
        refine (encPair_accepts hp).bind_refuses (Refuses.bind ?_ _)
        cases j
        · exact (encOut_refuses (by simpa [hm, hs, hp] using h)).mono (by decide)
        · exact (encTarget_refuses (by simpa [hm, hs, hp] using h)).mono (by decide)

theorem genCond_emits {m : String} {fam : Opcodes → Family} {c x y t : Operand} {p : Params} {a : Arch}
    (hc : WellFormed.okAux 255 c = true) (h : WellFormed.okCjmp p a x y t = true) :
    Emits (genCond m fam c x y t p a) (slotWarnings a [x, y])
      ⟨m, Decode.condOpcode (fam p.opcodes) (Decode.auxValue c), recordField p a x, recordField p a y, recordField p a t,
        true⟩ := by
  simp only [WellFormed.okCjmp, Bool.and_eq_true] at h
  have : slotWarnings a [x, y] = [] ++ slotWarnings a [x, y] := by simp
  rw [this]
  refine bind_emits (encAux_accepts hc).1 ?_
  exact bind_emits_nil (encPair_accepts h.1) (bind_emits (encTarget_accepts h.2) (emits_emit _))

theorem genCond_refuses {m : String} {fam : Opcodes → Family} {c x y t : Operand} {p : Params} {a : Arch}
    (h : (WellFormed.okAux 255 c && WellFormed.okCjmp p a x y t) = false) :
    Refuses (genCond m fam c x y t p a) genCodes := by
  cases hc : WellFormed.okAux 255 c with
  | false => exact ((encAux_refuses hc).mono (by decide)).bind _
  | true =>
    refine (encAux_accepts hc).1.bind_refuses ?_
    cases hp : WellFormed.okPair p a x y with
    | false => exact ((encPair_refuses hp).mono (by decide)).bind _
    | true =>
      refine (encPair_accepts hp).bind_refuses (Refuses.bind ?_ _)
      exact (encTarget_refuses (by simpa [hc, hp, WellFormed.okCjmp] using h)).mono (by decide)

theorem genCjmp_emits {m : String} {opc : Opcodes → Opcode} {x y t : Operand} {p : Params} {a : Arch}
    (h : WellFormed.okCjmp p a x y t = true) :
    Emits (genCjmp m opc x y t p a) (slotWarnings a [x, y])
      ⟨m, opc p.opcodes, recordField p a x, recordField p a y, recordField p a t, true⟩ := by
  simp only [WellFormed.okCjmp, Bool.and_eq_true] at h
  exact bind_emits_nil (encPair_accepts h.1) (bind_emits (encTarget_accepts h.2) (emits_emit _))

theorem genCjmp_refuses {m : String} {opc : Opcodes → Opcode} {x y t : Operand} {p : Params} {a : Arch}
    (h : WellFormed.okCjmp p a x y t = false) : Refuses (genCjmp m opc x y t p a) genCodes := by
  cases hp : WellFormed.okPair p a x y with
  | false => exact ((encPair_refuses hp).mono (by decide)).bind _
  | true =>
    refine (encPair_accepts hp).bind_refuses (Refuses.bind ?_ _)
    exact (encTarget_refuses (by simpa [hp, WellFormed.okCjmp] using h)).mono (by decide)

/-! ### What a generation does to the state -/

theorem applyEvents_warn (isEntry : Bool) (loc : Option Nat) (s : State) (ws : List (WCode × Info)) :
    applyEvents isEntry loc s (warnEvents ws) = { s with warnings := s.warnings ++ logged (sourceLoc loc) ws } := by
  induction ws generalizing s with
  | nil => simp [applyEvents, logged]
  | cons w ws ih =>
    have := ih (s.warn w.1 w.2 (sourceLoc loc))
    simp only [applyEvents, warnEvents, List.map_cons, List.foldl_cons, applyEvent] at this ⊢
    rw [this]
    simp [State.warn, logged]

theorem applyEvents_append (isEntry : Bool) (loc : Option Nat) (s : State) (es fs : List Event) :
    applyEvents isEntry loc s (es ++ fs) = applyEvents isEntry loc (applyEvents isEntry loc s es) fs := by
  simp [applyEvents]

/-- The records a generation appends, and nothing but warnings and records changes. -/
theorem applyEvents_spec (isEntry : Bool) (loc : Option Nat) (s : State) (es : List Event) :
    ∃ ws rs, applyEvents isEntry loc s es = { s with warnings := s.warnings ++ ws, records := s.records ++ rs } ∧
      (∀ w ∈ ws, w.loc = sourceLoc loc) ∧
      rs = es.filterMap (fun | .insn x => some (x.record isEntry loc) | .warn .. => none) := by
  induction es generalizing s with
  | nil => exact ⟨[], [], by simp [applyEvents], by simp, by simp⟩
  | cons e es ih =>
    obtain ⟨ws, rs, h1, h2, h3⟩ := ih (applyEvent isEntry loc s e)
    have h0 : applyEvents isEntry loc s (e :: es) = applyEvents isEntry loc (applyEvent isEntry loc s e) es := rfl
    rw [h0, h1]
    cases e with
    | warn c i => exact ⟨⟨c, i, sourceLoc loc⟩ :: ws, rs, by simp [applyEvent, State.warn], by simpa using h2, by simpa using h3⟩
    | insn x =>
      simp only [applyEvent, State.appendInsn]
      split
      · exact ⟨⟨.W4, .location (sourceLoc loc), sourceLoc loc⟩ :: ws, x.record isEntry loc :: rs, by simp [State.warn],
          by simpa using h2, by simp [h3]⟩
      · exact ⟨ws, x.record isEntry loc :: rs, by simp, h2, by simp [h3]⟩

/-- The state after one record was generated at statement `st`. -/
theorem generateStatement_emits {g : Params → Arch → Gen Unit} {s : State} {st : Stmt} {rest : List Stmt} {a : Arch}
    {ws : List (WCode × Info)} {x : Emitted} (ha : s.cfg.arch = some a) (h : Emits (g s.cfg.params a) ws x) :
    generateStatement g (st :: rest) s = generated s st rest ws x := by
  simp only [generateStatement, ha, settle, currentLoc, List.head?_cons, Option.bind_some, List.tail_cons]
  rw [h]
  simp only [applyEvents_append, applyEvents_warn]
  simp only [applyEvents, List.foldl_cons, List.foldl_nil, applyEvent, State.appendInsn, generated, returnWarning, logged,
    List.map_append, State.warn]
  split <;> simp

/-- The state after a generation was refused at statement `st`. -/
theorem generateStatement_refuses {g : Params → Arch → Gen Unit} {s : State} {st : Stmt} {rest : List Stmt} {a : Arch}
    {ws : List (WCode × Info)} {e : Err} (ha : s.cfg.arch = some a) (h : g s.cfg.params a = ⟨warnEvents ws, .error e⟩) :
    generateStatement g (st :: rest) s =
      ({ s with warnings := s.warnings ++ logged (sourceLoc (stmtLoc st)) ws }).raise e.code e.info
        (sourceLoc (stmtLoc st)) := by
  simp [generateStatement, ha, settle, h, currentLoc, applyEvents_warn]

end Sys2Proof.Laws.Generation
end

