-- ==== Sys2Proof/Laws/Exec.lean ====
section
/-! SUPPORT. Every instruction meaning is the one shared operation `perform` on the instruction's generator and recipe: the
case split over the 54 meanings, made once. -/

namespace Sys2Proof.Laws.Exec

open Sys2Proof Sys2Proof.Machine Sys2Proof.Safety Sys2Proof.Laws.Operands Sys2Proof.Laws.Generation

/-- The generation of each instruction, as its meaning gives it. -/
def generatorOf : Instr → Params → Arch → Gen Unit
  | .mul a b d => genStd3 "mul" (·.mul) a b d
  | .add a b d => genStd3 "add" (·.add) a b d
  | .addDot a b d => genStd3 "add." (·.addDot) a b d
  | .addc a b d => genStd3 "addc" (·.addc) a b d
  | .addcDot a b d => genStd3 "addc." (·.addcDot) a b d
  | .sub a b d => genStd3 "sub" (·.sub) a b d
  | .subDot a b d => genStd3 "sub." (·.subDot) a b d
  | .subc a b d => genStd3 "subc" (·.subc) a b d
  | .subcDot a b d => genStd3 "subc." (·.subcDot) a b d
  | .sra a b d => genStd3 "sra" (·.sra) a b d
  | .or a b d => genStd3 "or" (·.or) a b d
  | .and a b d => genStd3 "and" (·.and) a b d
  | .xor a b d => genStd3 "xor" (·.xor) a b d
  | .sr a b d => genStd3 "sr" (·.sr) a b d
  | .sl a b d => genStd3 "sl" (·.sl) a b d
  | .rl a b d => genStd3 "rl" (·.rl) a b d
  | .rr a b d => genStd3 "rr" (·.rr) a b d
  | .nand a b d => genStd3 "nand" (·.nand) a b d
  | .tkiph a d => genTkip2 "tkiph" (·.tkiph) a d
  | .tkiphs a d => genTkip2 "tkiphs" (·.tkiphs) a d
  | .tkipl a d => genTkip2 "tkipl" (·.tkipl) a d
  | .tkipls a d => genTkip2 "tkipls" (·.tkipls) a d
  | .srx m n a b z => genExt "srx" (·.srx) false m n a b z
  | .orx m n a b z => genExt "orx" (·.orx) false m n a b z
  | .jzx m n a b z => genExt "jzx" (·.jzx) true m n a b z
  | .jnzx m n a b z => genExt "jnzx" (·.jnzx) true m n a b z
  | .jext c a b t => genCond "jext" (·.jext) c a b t
  | .jnext c a b t => genCond "jnext" (·.jnext) c a b t
  | .jand a b t => genJand "jand" (·.jand) "jnzx" (·.jnzx) a b t
  | .jnand a b t => genJand "jnand" (·.jnand) "jzx" (·.jzx) a b t
  | .js a b t => genCjmp "js" (·.js) a b t
  | .jns a b t => genCjmp "jns" (·.jns) a b t
  | .je a b t => genCjmp "je" (·.je) a b t
  | .jne a b t => genCjmp "jne" (·.jne) a b t
  | .jls a b t => genCjmp "jls" (·.jls) a b t
  | .jges a b t => genCjmp "jges" (·.jges) a b t
  | .jgs a b t => genCjmp "jgs" (·.jgs) a b t
  | .jles a b t => genCjmp "jles" (·.jles) a b t
  | .jdn a b t => genCjmp "jdn" (·.jdn) a b t
  | .jdpz a b t => genCjmp "jdpz" (·.jdpz) a b t
  | .jdp a b t => genCjmp "jdp" (·.jdp) a b t
  | .jdnz a b t => genCjmp "jdnz" (·.jdnz) a b t
  | .jl a b t => genCjmp "jl" (·.jl) a b t
  | .jge a b t => genCjmp "jge" (·.jge) a b t
  | .jg a b t => genCjmp "jg" (·.jg) a b t
  | .jle a b t => genCjmp "jle" (·.jle) a b t
  | .call lr t => genCall lr t
  | .calls t => genCalls t
  | .ret x y z => genRet x y z
  | .rets => genRets
  | .nap => genNap
  | .raw h x y z => genRaw h x y z
  | .mov src dst => genMov src dst
  | .jmp t => genJmp t

/-- What the decoder records and checks for each instruction; `none` for one it never yields. -/
def recipeOf : Instr → Params → Option Recipe
  | .mul _ _ _ => fun _ => some .plain
  | .add _ _ _ => fun _ => some .plain
  | .addDot _ _ _ => fun _ => some .plain
  | .addc _ _ _ => fun _ => some .plain
  | .addcDot _ _ _ => fun _ => some .plain
  | .sub _ _ _ => fun _ => some .plain
  | .subDot _ _ _ => fun _ => some .plain
  | .subc _ _ _ => fun _ => some .plain
  | .subcDot _ _ _ => fun _ => some .plain
  | .sra _ _ _ => fun _ => some .plain
  | .or _ _ _ => fun _ => some .plain
  | .and _ _ _ => fun _ => some .plain
  | .xor _ _ _ => fun _ => some .plain
  | .sr _ _ _ => fun _ => some .plain
  | .sl _ _ _ => fun _ => some .plain
  | .rl _ _ _ => fun _ => some .plain
  | .rr _ _ _ => fun _ => some .plain
  | .nand _ _ _ => fun _ => some .plain
  | .tkiph _ _ => tkip2Recipe
  | .tkiphs _ _ => tkip2Recipe
  | .tkipl _ _ => tkip2Recipe
  | .tkipls _ _ => tkip2Recipe
  | .srx _ _ _ _ _ => fun _ => some .plain
  | .orx _ _ _ _ _ => fun _ => some .plain
  | .jzx _ _ _ _ t => fun _ => some (.jump t)
  | .jnzx _ _ _ _ t => fun _ => some (.jump t)
  | .jext _ _ _ t => fun _ => some (.jump t)
  | .jnext _ _ _ t => fun _ => some (.jump t)
  | .jand _ _ t => fun _ => some (.jump t)
  | .jnand _ _ t => fun _ => some (.jump t)
  | .js _ _ t => fun _ => some (.jump t)
  | .jns _ _ t => fun _ => some (.jump t)
  | .je _ _ t => fun _ => some (.jump t)
  | .jne _ _ t => fun _ => some (.jump t)
  | .jls _ _ t => fun _ => some (.jump t)
  | .jges _ _ t => fun _ => some (.jump t)
  | .jgs _ _ t => fun _ => some (.jump t)
  | .jles _ _ t => fun _ => some (.jump t)
  | .jdn _ _ t => fun _ => some (.jump t)
  | .jdpz _ _ t => fun _ => some (.jump t)
  | .jdp _ _ t => fun _ => some (.jump t)
  | .jdnz _ _ t => fun _ => some (.jump t)
  | .jl _ _ t => fun _ => some (.jump t)
  | .jge _ _ t => fun _ => some (.jump t)
  | .jg _ _ t => fun _ => some (.jump t)
  | .jle _ _ t => fun _ => some (.jump t)
  | .call _ t => fun p => some ⟨[0], some t, [(1, p.constants.call1)]⟩
  | .calls t => fun p => some ⟨[], some t, [(0, p.constants.calls0), (1, p.constants.calls1)]⟩
  | .ret _ _ _ => fun _ => some ⟨[0, 1, 2], none, []⟩
  | .rets => fun p => some ⟨[], none, [(0, p.constants.rets0), (1, p.constants.rets1), (2, p.constants.rets2)]⟩
  | .nap => fun p => some ⟨[], none, [(0, p.constants.nap0), (1, p.constants.nap1), (2, p.constants.nap2)]⟩
  | .raw _ _ _ _ => fun _ => some .plain
  | .mov _ _ => fun _ => none
  | .jmp _ => fun _ => none

theorem exec_eq_perform (i : Instr) (s : State) : exec i s = perform i (generatorOf i) (recipeOf i) s := by
  cases i <;> rfl

/-- An instruction at an encoder that generates. -/
theorem exec_generate {i : Instr} {s : State} {todo : List Stmt} (ht : s.task = .generate todo) :
    exec i s = .next (generateStatement (generatorOf i) todo s) := by
  rw [exec_eq_perform]; simp [perform, ht]

/-- An instruction at a decoder that classifies. -/
theorem exec_classify {i : Instr} {s : State} {k : Nat} (ht : s.task = .classify k) :
    exec i s = .next (match recipeOf i s.cfg.params with
      | some r => deliver i r k s
      | none => s.raiseInternal) := by
  rw [exec_eq_perform]
  simp only [perform, ht]
  cases recipeOf i s.cfg.params <;> rfl

/-- Anywhere else an instruction has no meaning. -/
theorem exec_elsewhere {i : Instr} {s : State} (hg : ∀ todo, s.task ≠ .generate todo) (hc : ∀ k, s.task ≠ .classify k) :
    exec i s = .fault .noInstructionHere := by
  rw [exec_eq_perform]
  unfold perform
  split
  · exact absurd ‹_› (hg _)
  · exact absurd ‹_› (hc _)
  · rfl

/-- An instruction that generates one record. -/
theorem exec_emits {i : Instr} {s : State} {st : Stmt} {rest : List Stmt} {a : Arch} {ws : List (WCode × Info)}
    {x : Emitted} (ht : s.task = .generate (st :: rest)) (ha : s.cfg.arch = some a)
    (h : Emits (generatorOf i s.cfg.params a) ws x) : exec i s = .next (generated s st rest ws x) := by
  rw [exec_generate ht, generateStatement_emits ha h]

/-- An instruction that is refused. -/
theorem exec_refuses {i : Instr} {s : State} {st : Stmt} {rest : List Stmt} {a : Arch} {ws : List (WCode × Info)}
    {e : Err} (ht : s.task = .generate (st :: rest)) (ha : s.cfg.arch = some a)
    (h : generatorOf i s.cfg.params a = ⟨warnEvents ws, .error e⟩) :
    exec i s = .next (({ s with warnings := s.warnings ++ logged (sourceLoc (stmtLoc st)) ws }).raise e.code e.info
      (sourceLoc (stmtLoc st))) := by
  rw [exec_generate ht, generateStatement_refuses ha h]

end Sys2Proof.Laws.Exec
end

