-- ==== Sys2Proof/Laws/PerInstr.lean ====
section
/-! SUPPORT. The round trip between an instruction and its mnemonic with its operand list (45_resolution.md rules R259,
R262), one lemma for each constructor of `Instr`. -/

namespace Sys2Proof.Laws.PartsRoundTrip

open Sys2Proof

/-- The statement that carries an instruction's mnemonic and operands names that instruction. -/
def Statement (i : Instr) : Prop := Statements.ofParts (Statements.mnemonicOf i) (Statements.operandsOf i) = some i

theorem mul (a b d : Operand) : Statement (.mul a b d) := rfl

theorem add (a b d : Operand) : Statement (.add a b d) := rfl

theorem addDot (a b d : Operand) : Statement (.addDot a b d) := rfl

theorem addc (a b d : Operand) : Statement (.addc a b d) := rfl

theorem addcDot (a b d : Operand) : Statement (.addcDot a b d) := rfl

theorem sub (a b d : Operand) : Statement (.sub a b d) := rfl

theorem subDot (a b d : Operand) : Statement (.subDot a b d) := rfl

theorem subc (a b d : Operand) : Statement (.subc a b d) := rfl

theorem subcDot (a b d : Operand) : Statement (.subcDot a b d) := rfl

theorem sra (a b d : Operand) : Statement (.sra a b d) := rfl

theorem or (a b d : Operand) : Statement (.or a b d) := rfl

theorem and (a b d : Operand) : Statement (.and a b d) := rfl

theorem xor (a b d : Operand) : Statement (.xor a b d) := rfl

theorem sr (a b d : Operand) : Statement (.sr a b d) := rfl

theorem sl (a b d : Operand) : Statement (.sl a b d) := rfl

theorem rl (a b d : Operand) : Statement (.rl a b d) := rfl

theorem rr (a b d : Operand) : Statement (.rr a b d) := rfl

theorem nand (a b d : Operand) : Statement (.nand a b d) := rfl

theorem tkiph (a d : Operand) : Statement (.tkiph a d) := rfl

theorem tkiphs (a d : Operand) : Statement (.tkiphs a d) := rfl

theorem tkipl (a d : Operand) : Statement (.tkipl a d) := rfl

theorem tkipls (a d : Operand) : Statement (.tkipls a d) := rfl

theorem srx (m s a b d : Operand) : Statement (.srx m s a b d) := rfl

theorem orx (m s a b d : Operand) : Statement (.orx m s a b d) := rfl

theorem jzx (m s a b target : Operand) : Statement (.jzx m s a b target) := rfl

theorem jnzx (m s a b target : Operand) : Statement (.jnzx m s a b target) := rfl

theorem jext (c a b target : Operand) : Statement (.jext c a b target) := rfl

theorem jnext (c a b target : Operand) : Statement (.jnext c a b target) := rfl

theorem jand (a b target : Operand) : Statement (.jand a b target) := rfl

theorem jnand (a b target : Operand) : Statement (.jnand a b target) := rfl

theorem js (a b target : Operand) : Statement (.js a b target) := rfl

theorem jns (a b target : Operand) : Statement (.jns a b target) := rfl

theorem je (a b target : Operand) : Statement (.je a b target) := rfl

theorem jne (a b target : Operand) : Statement (.jne a b target) := rfl

theorem jls (a b target : Operand) : Statement (.jls a b target) := rfl

theorem jges (a b target : Operand) : Statement (.jges a b target) := rfl

theorem jgs (a b target : Operand) : Statement (.jgs a b target) := rfl

theorem jles (a b target : Operand) : Statement (.jles a b target) := rfl

theorem jdn (a b target : Operand) : Statement (.jdn a b target) := rfl

theorem jdpz (a b target : Operand) : Statement (.jdpz a b target) := rfl

theorem jdp (a b target : Operand) : Statement (.jdp a b target) := rfl

theorem jdnz (a b target : Operand) : Statement (.jdnz a b target) := rfl

theorem jl (a b target : Operand) : Statement (.jl a b target) := rfl

theorem jge (a b target : Operand) : Statement (.jge a b target) := rfl

theorem jg (a b target : Operand) : Statement (.jg a b target) := rfl

theorem jle (a b target : Operand) : Statement (.jle a b target) := rfl

theorem call (lr target : Operand) : Statement (.call lr target) := rfl

theorem calls (target : Operand) : Statement (.calls target) := rfl

theorem ret (lrA lrB lrC : Operand) : Statement (.ret lrA lrB lrC) := rfl

theorem rets : Statement .rets := rfl

theorem nap : Statement .nap := rfl

theorem raw (h : Nat) (f0 f1 f2 : Operand) : Statement (.raw h f0 f1 f2) := rfl

theorem mov (src dst : Operand) : Statement (.mov src dst) := rfl

theorem jmp (target : Operand) : Statement (.jmp target) := rfl

end Sys2Proof.Laws.PartsRoundTrip
end

