-- ==== Sys2Proof/Laws/Words.lean ====
section
/-! SUPPORT. The classification of an opcode: what the exact table finds, and when it finds nothing. -/

namespace Sys2Proof.Laws

open Sys2Proof

theorem lookup_mem {α β : Type} [BEq α] [LawfulBEq α] {k : α} {v : β} {l : List (α × β)} (h : l.lookup k = some v) :
    (k, v) ∈ l := by
  induction l with
  | nil => cases h
  | cons x xs ih =>
    obtain ⟨y, w⟩ := x
    simp only [List.lookup] at h
    split at h
    · rename_i hk
      cases h
      rw [eq_of_beq hk]
      exact List.mem_cons_self
    · exact List.mem_cons_of_mem _ (ih h)

theorem lookup_none {α β : Type} [BEq α] [LawfulBEq α] {k : α} {l : List (α × β)} :
    l.lookup k = none ↔ k ∉ l.map Prod.fst := by
  induction l with
  | nil => simp
  | cons x xs ih =>
    obtain ⟨y, w⟩ := x
    simp only [List.lookup]
    split
    · rename_i hk; simp [eq_of_beq hk]
    · rename_i hk
      have hne : k ≠ y := fun h => by simp [h] at hk
      simp [ih, hne]

/-- The keys of the exact table are the 45 exact opcodes, in the order of 30_encoding.md rule R100. -/
theorem exactTable_keys (p : Params) (a b d : Operand) (x : Decode.WordFields) :
    (Decode.exactTable p a b d x).map Prod.fst = Flags.exactOpcodes p.opcodes := rfl

/-- What the exact table gives is one of its rows. -/
theorem decExact_mem {p : Params} {opc : Opcode} {a b d : Operand} {x : Decode.WordFields} {i : Instr}
    (h : Decode.decExact p opc a b d x = some i) : (opc, i) ∈ Decode.exactTable p a b d x := lookup_mem h

/-- The exact table gives nothing exactly for an opcode that is none of its keys. -/
theorem decExact_none {p : Params} {opc : Opcode} {a b d : Operand} {x : Decode.WordFields} :
    Decode.decExact p opc a b d x = none ↔ opc ∉ Flags.exactOpcodes p.opcodes := by
  rw [← exactTable_keys p a b d x]; exact lookup_none

/-- The keys of the family table are the six family values, in the order of `Flags.extendedFamilies`. -/
theorem familyTable_keys (o : Opcodes) (opc : Opcode) (a b d : Operand) (t : Nat) :
    (Decode.familyTable o opc a b d t).map Prod.fst = Flags.extendedFamilies o := rfl

/-- What the family table gives is one of its rows. -/
theorem decExtended_mem {o : Opcodes} {opc : Opcode} {a b d : Operand} {t : Nat} {i : Instr}
    (h : Decode.decExtended o opc a b d t = some i) :
    (opc.extractLsb' 8 4, i) ∈ Decode.familyTable o opc a b d t := lookup_mem h

/-- The family value of an opcode, as a number. -/
theorem family_toNat (opc : Opcode) : (opc.extractLsb' 8 4).toNat = opc.toNat / 256 := by
  have := opc.isLt
  simp [BitVec.extractLsb', Nat.shiftRight_eq_div_pow]
  omega

/-- What the family table finds, by the family value as a number. -/
theorem decExtended_eq (o : Opcodes) (opc : Opcode) (a b d : Operand) (t : Nat) :
    Decode.decExtended o opc a b d t =
      let m := Operand.number (opc.toNat / 16 % 16)
      let s := Operand.number (opc.toNat % 16)
      let c := Operand.number (opc.toNat % 256)
      if opc.toNat / 256 = o.srx.toNat then some (.srx m s a b d)
      else if opc.toNat / 256 = o.orx.toNat then some (.orx m s a b d)
      else if opc.toNat / 256 = o.jzx.toNat then some (.jzx m s a b (.address t))
      else if opc.toNat / 256 = o.jnzx.toNat then some (.jnzx m s a b (.address t))
      else if opc.toNat / 256 = o.jnext.toNat then some (.jnext c a b (.address t))
      else if opc.toNat / 256 = o.jext.toNat then some (.jext c a b (.address t))
      else none := by
  have key : ∀ f : Family, opc.toNat / 256 = f.toNat ↔ opc.extractLsb' 8 4 = f := fun f => by
    rw [← family_toNat, BitVec.toNat_inj]
  simp only [Decode.decExtended, Decode.familyTable, List.lookup, key]
  repeat' split
  all_goals simp_all

/-- The extended families give nothing exactly for an opcode of no family. -/
theorem decExtended_none {o : Opcodes} {opc : Opcode} {a b d : Operand} {t : Nat} :
    Decode.decExtended o opc a b d t = none ↔ Flags.isExtended o opc = false := by
  rw [Decode.decExtended, lookup_none, familyTable_keys, Flags.isExtended]
  simp [List.contains_eq_mem]

end Sys2Proof.Laws
end

