-- ==== Sys2Proof/Tests/Slice0.lean ====
section
/-! SUPPORT. Tests. The words, the values and the codes come from the worked examples of the spec; each instruction's test
names the rule they stand in. The witnesses show that the hypotheses of each statement for the provers can be met, each
clause at a boundary value. -/

namespace Sys2Proof.Tests

open Sys2Proof Sys2Proof.Machine Sys2Proof.Safety Sys2Proof.Claims

/-! ### Helpers -/

/-- A general register. -/
abbrev r (n : Nat) : Operand := .reg .gpr n

/-- A special register. -/
abbrev spr (n : Nat) : Operand := .reg .spr n

/-- A bare number. -/
abbrev num (v : Int) : Operand := .number v

/-- A jump target. -/
abbrev tgt (t : Nat) : Operand := .address t

/-- The configuration at reset with a revision. -/
def onArch (a : Arch) : Cfg := { Cfg.reset with arch := some a }

/-- The encoder at the one statement of an instruction, at source line 7. -/
def atInsn (a : Arch) (i : Instr) : State :=
  { State.reset with
    cfg := onArch a
    task := .generate [.insn (Statements.mnemonicOf i) (Statements.operandsOf i) (some 7)] }

/-- The encoder at a stage. -/
def atTask (a : Arch) (t : Task) : State := { State.reset with cfg := onArch a, task := t }

/-- The state a step goes to. -/
def after (o : Host.Outcome State Fault Refusal) : Option State :=
  match o with
  | .next s => some s
  | _ => none

/-- The words of the records the encoder generates an instruction as. -/
def words (a : Arch) (i : Instr) : Option (List (Option Word)) :=
  (after (exec i (atInsn a i))).map fun s => s.records.map (recordWord a)

/-- The fatal code of an instruction's generation. -/
def fatalOf (a : Arch) (i : Instr) : Option ECode :=
  ((after (exec i (atInsn a i))).bind fun s => s.fatal).map fun d => d.code

/-- The codes of the warnings of an instruction's generation. -/
def warningsOf (a : Arch) (i : Instr) : Option (List WCode) :=
  (after (exec i (atInsn a i))).map fun s => s.warnings.map fun w => w.code

/-- What the decoder reads from a word. -/
def reads (a : Arch) (w : Word) : Option Instr :=
  match decodeDefault false a w with
  | .ok i => some i
  | .error _ => none

/-- On both revisions, an instruction is generated as a word, and the word is read as it. -/
def agrees (i : Instr) (w5 w15 : Word) : Bool :=
  reads .rev5 w5 == some i && reads .rev15 w15 == some i && words .rev5 i == some [some w5] &&
    words .rev15 i == some [some w15]

/-- The code of the fatal error and the codes of the warnings a delivered word leaves. -/
def delivery (a : Arch) (w : Word) : Option (Option ECode × List WCode × List Nat) :=
  (after (step (State.reset.atWord a w))).map fun s =>
    (s.fatal.map fun d => d.code, s.warnings.map fun x => x.code, s.targets)

/-- An instruction the encoder refuses on Rev5. -/
def illFormed (i : Instr) : Bool := !i.wellFormed Params.default .rev5


/-! ### One word of each instruction, on both revisions -/

/-- 40_alu.md rule R133. -/
theorem test_mul : agrees (.mul (r 1) (r 2) (r 3)) 0x0000101BC1BC2BC3 0x000080DE06F05783 = true := by decide

/-- 40_alu.md rule R134. -/
theorem test_add : agrees (.add (r 1) (.imm 5) (r 2)) 0x00001C0BC1C05BC2 0x0000E05E0700B782 = true := by decide

/-- 40_alu.md rule R135. -/
theorem test_addDot : agrees (.addDot (r 1) (.imm (-1)) (r 2)) 0x00001C2BC1FFFBC2 0x0000E15E07FFF782 = true := by decide

/-- 40_alu.md rule R136. -/
theorem test_addc : agrees (.addc (r 0) (.direct 0x010) (r 1)) 0x00001C1BC0010BC1 0x0000E0DE00021781 = true := by decide

/-- 40_alu.md rule R137. -/
theorem test_addcDot : agrees (.addcDot (spr 0x06B) (.imm 1) (r 2)) 0x00001C386BC01BC2 0x0000E1C1AF003782 = true := by decide

/-- 40_alu.md rule R138. -/
theorem test_sub : agrees (.sub (r 3) (r 4) (r 5)) 0x00001D0BC3BC4BC5 0x0000E85E0EF09785 = true := by decide

/-- 40_alu.md rule R139. -/
theorem test_subDot : agrees (.subDot (.indirect 0x20 1) (.imm 2) (r 0)) 0x00001D2A60C02BC0 0x0000E95283005780 = true := by decide

/-- 40_alu.md rule R140. -/
theorem test_subc : agrees (.subc (r 0) (.imm 0) (r 0)) 0x00001D1BC0C00BC0 0x0000E8DE03001780 = true := by decide

/-- 40_alu.md rule R141. -/
theorem test_subcDot : agrees (.subcDot (.imm 0x1FF) (r 7) (r 7)) 0x00001D3DFFBC7BC7 0x0000E9E7FEF0F787 = true := by decide

/-- 40_alu.md rule R142. -/
theorem test_sra : agrees (.sra (r 2) (.imm 3) (r 2)) 0x0000130BC2C03BC2 0x0000985E0B007782 = true := by decide

/-- 40_alu.md rule R143. -/
theorem test_or : agrees (.or (r 1) (.imm 0) (r 2)) 0x0000160BC1C00BC2 0x0000B05E07001782 = true := by decide

/-- 40_alu.md rule R144. -/
theorem test_and : agrees (.and (spr 0x100) (.imm 0xFF) (r 3)) 0x0000140900CFFBC3 0x0000A044031FF783 = true := by decide

/-- 40_alu.md rule R145. -/
theorem test_xor : agrees (.xor (r 1) (r 1) (r 1)) 0x0000170BC1BC1BC1 0x0000B85E06F03781 = true := by decide

/-- 40_alu.md rule R146. -/
theorem test_sr : agrees (.sr (r 5) (.imm 8) (r 5)) 0x0000120BC5C08BC5 0x0000905E17011785 = true := by decide

/-- 40_alu.md rule R147. -/
theorem test_sl : agrees (.sl (r 5) (.imm 4) (r 6)) 0x0000110BC5C04BC6 0x0000885E17009786 = true := by decide

/-- 40_alu.md rule R148. -/
theorem test_rl : agrees (.rl (r 9) (.imm 1) (r 9)) 0x00001A0BC9C01BC9 0x0000D05E27003789 = true := by decide

/-- 40_alu.md rule R149. -/
theorem test_rr : agrees (.rr (r 9) (.imm 1) (r 9)) 0x00001B0BC9C01BC9 0x0000D85E27003789 = true := by decide

/-- 40_alu.md rule R150. -/
theorem test_nand : agrees (.nand (r 2) (.imm 0xF) (r 2)) 0x0000150BC2C0FBC2 0x0000A85E0B01F782 = true := by decide

/-- 40_alu.md rule R152. -/
theorem test_tkiph : agrees (.tkiph (r 1) (r 2)) 0x00001E0BC1000BC2 0x0000F05E04001782 = true := by decide

/-- 40_alu.md rule R153. -/
theorem test_tkiphs : agrees (.tkiphs (r 1) (r 2)) 0x00001E1BC1000BC2 0x0000F0DE04001782 = true := by decide

/-- 40_alu.md rule R154. -/
theorem test_tkipl : agrees (.tkipl (r 1) (r 2)) 0x00001E2BC1000BC2 0x0000F15E04001782 = true := by decide

/-- 40_alu.md rule R155. -/
theorem test_tkipls : agrees (.tkipls (r 1) (r 2)) 0x00001E3BC1000BC2 0x0000F1DE04001782 = true := by decide

/-- 41_extended.md rule R176. -/
theorem test_srx : agrees (.srx (num 15) (num 0) (spr 0x06B) (.imm 0) (r 5)) 0x00002F086BC00BC5 0x00017841AF001785 = true := by decide

/-- 41_extended.md rule R177. -/
theorem test_orx : agrees (.orx (num 7) (num 8) (.imm 0x12) (.imm 0x34) (r 0)) 0x0000378C12C34BC0 0x0001BC604B069780 = true := by decide

/-- 41_extended.md rule R178. -/
theorem test_jzx : agrees (.jzx (num 0) (num 12) (r 1) (.imm 0) (tgt 5)) 0x000040CBC1C00005 0x0002065E07000005 = true := by decide

/-- 41_extended.md rule R179. -/
theorem test_jnzx : agrees (.jnzx (num 3) (num 4) (r 2) (.imm 0) (tgt 0x10)) 0x0000534BC2C00010 0x00029A5E0B000010 = true := by decide

/-- 41_extended.md rule R180. -/
theorem test_jext : agrees (.jext (num 0x7F) (r 0) (r 0) (tgt 3)) 0x000077FBC0BC0003 0x0003BFDE02F00003 = true := by decide

/-- 41_extended.md rule R181. -/
theorem test_jnext : agrees (.jnext (num 0x3D) (r 0) (r 0) (tgt 7)) 0x000063DBC0BC0007 0x00031EDE02F00007 = true := by decide

/-- 42_jumps.md rule R194. -/
theorem test_jand : agrees (.jand (r 1) (.imm 0x100) (tgt 2)) 0x0000040BC1D00002 0x0000205E07200002 = true := by decide

/-- 42_jumps.md rule R195. -/
theorem test_jnand : agrees (.jnand (r 1) (r 2) (tgt 3)) 0x0000041BC1BC2003 0x000020DE06F04003 = true := by decide

/-- 42_jumps.md rule R196. -/
theorem test_js : agrees (.js (r 1) (.imm 0x80) (tgt 4)) 0x0000050BC1C80004 0x0000285E07100004 = true := by decide

/-- 42_jumps.md rule R197. -/
theorem test_jns : agrees (.jns (spr 0x06B) (.imm 1) (tgt 5)) 0x000005186BC01005 0x000028C1AF002005 = true := by decide

/-- 42_jumps.md rule R198. -/
theorem test_je : agrees (.je (r 1) (r 2) (tgt 6)) 0x00000D0BC1BC2006 0x0000685E06F04006 = true := by decide

/-- 42_jumps.md rule R199. -/
theorem test_jne : agrees (.jne (r 1) (.imm 0) (tgt 7)) 0x00000D1BC1C00007 0x000068DE07000007 = true := by decide

/-- 42_jumps.md rule R200. -/
theorem test_jls : agrees (.jls (r 3) (.imm (-1)) (tgt 8)) 0x00000D2BC3FFF008 0x0000695E0FFFE008 = true := by decide

/-- 42_jumps.md rule R201. -/
theorem test_jges : agrees (.jges (r 3) (.imm (-5)) (tgt 9)) 0x00000D3BC3FFB009 0x000069DE0FFF6009 = true := by decide

/-- 42_jumps.md rule R202. -/
theorem test_jgs : agrees (.jgs (r 3) (.imm 100) (tgt 10)) 0x00000D4BC3C6400A 0x00006A5E0F0C800A = true := by decide

/-- 42_jumps.md rule R203. -/
theorem test_jles : agrees (.jles (.direct 0x040) (r 0) (tgt 11)) 0x00000D5040BC000B 0x00006A8102F0000B = true := by decide

/-- 42_jumps.md rule R204. -/
theorem test_jdn : agrees (.jdn (r 1) (r 2) (tgt 12)) 0x00000D6BC1BC200C 0x00006B5E06F0400C = true := by decide

/-- 42_jumps.md rule R205. -/
theorem test_jdpz : agrees (.jdpz (r 1) (r 2) (tgt 13)) 0x00000D7BC1BC200D 0x00006BDE06F0400D = true := by decide

/-- 42_jumps.md rule R206. -/
theorem test_jdp : agrees (.jdp (r 1) (.imm 7) (tgt 14)) 0x00000D8BC1C0700E 0x00006C5E0700E00E = true := by decide

/-- 42_jumps.md rule R207. -/
theorem test_jdnz : agrees (.jdnz (r 1) (.imm 7) (tgt 15)) 0x00000D9BC1C0700F 0x00006CDE0700E00F = true := by decide

/-- 42_jumps.md rule R208. -/
theorem test_jl : agrees (.jl (r 4) (.imm 0x1FF) (tgt 16)) 0x00000DABC4DFF010 0x00006D5E133FE010 = true := by decide

/-- 42_jumps.md rule R209. -/
theorem test_jge : agrees (.jge (.indirect 3 0) (.imm 0x10) (tgt 17)) 0x00000DBA03C10011 0x00006DD00F020011 = true := by decide

/-- 42_jumps.md rule R210. -/
theorem test_jg : agrees (.jg (r 4) (spr 1) (tgt 18)) 0x00000DCBC4801012 0x00006E5E12002012 = true := by decide

/-- 42_jumps.md rule R211. -/
theorem test_jle : agrees (.jle (r 4) (r 5) (tgt 0x20)) 0x00000DDBC4BC5020 0x00006EDE12F0A020 = true := by decide

/-- 43_call_ret_nap.md rule R232. -/
theorem test_call : agrees (.call (.linkReg 1) (tgt 0x10)) 0x0000002001000010 0x0000010004000010 = true := by decide

/-- 43_call_ret_nap.md rule R233. -/
theorem test_calls : agrees (.calls (tgt 0x21)) 0x0000004000000021 0x0000020000000021 = true := by decide

/-- 43_call_ret_nap.md rule R234. -/
theorem test_ret : agrees (.ret (.linkReg 1) (.linkReg 2) (.linkReg 3)) 0x0000003001002003 0x0000018004004003 = true := by decide

/-- 43_call_ret_nap.md rule R235. -/
theorem test_rets : agrees .rets 0x0000005000000000 0x0000028000000000 = true := by decide

/-- 43_call_ret_nap.md rule R235. -/
theorem test_nap : agrees .nap 0x0000001000000000 0x0000008000000000 = true := by decide

/-- 43_call_ret_nap.md rule R236. -/
theorem test_raw : agrees (.raw 0x1FF (.raw 0x123) (.raw 0x456) (.raw 0x789)) 0x00001FF123456789 0x0000FF848C8AC789 = true := by decide

/-! ### Pseudo-instructions, emulation, truncation -/

/-- 44_pseudo.md rule R250. -/
theorem test_mov_register : words .rev5 (.mov (r 1) (r 2)) = some [some 0x0000160BC1C00BC2] := by decide

/-- 44_pseudo.md rule R250. -/
theorem test_mov_wide : words .rev5 (.mov (.imm (-1000)) (r 1)) = some [some 0x0000378CFCC18BC1] ∧
    warningsOf .rev5 (.mov (.imm (-1000)) (r 1)) = some [.W5] ∧
    words .rev15 (.mov (.imm (-1000)) (r 1)) = some [some 0x0000B07063001781] ∧
    warningsOf .rev15 (.mov (.imm (-1000)) (r 1)) = some [] := by decide

/-- 44_pseudo.md rule R252. -/
theorem test_jmp : words .rev5 (.jmp (tgt 5)) = some [some 0x000077FBC0BC0005] ∧
    words .rev15 (.jmp (tgt 5)) = some [some 0x0003BFDE02F00005] := by decide

/-- 42_jumps.md rule R194: the emulated mask on Rev5, the native one on Rev15. -/
theorem test_jand_wide : words .rev5 (.jand (r 1) (.imm 0x300) (tgt 4)) = some [some 0x0000518BC1C00004] ∧
    words .rev15 (.jand (r 1) (.imm 0x300) (tgt 4)) = some [some 0x0000205E07600004] ∧
    words .rev5 (.jand (.imm (-0x1000)) (r 1) (tgt 6)) = some [some 0x000053CBC1C00006] ∧
    fatalOf .rev5 (.jand (r 1) (.imm 0x505) (tgt 2)) = some .E8 := by decide

/-- 42_jumps.md rule R195. -/
theorem test_jnand_wide : words .rev5 (.jnand (r 1) (.imm (-0x8000)) (tgt 6)) = some [some 0x000040FBC1C00006] ∧
    words .rev15 (.jnand (r 1) (.imm (-0x8000)) (tgt 6)) = some [some 0x000207DE07000006] := by decide

/-- 40_alu.md rules R136, R139: `W2`, `W3`, `E7`. -/
theorem test_memory_warnings : warningsOf .rev5 (.addc (r 0) (.direct 0x800) (r 1)) = some [.W2] ∧
    warningsOf .rev5 (.subDot (.indirect 0x20 6) (.imm 2) (r 0)) = some [.W3] ∧
    warningsOf .rev15 (.subDot (.indirect 0x20 6) (.imm 2) (r 0)) = some [] ∧
    fatalOf .rev5 (.subDot (.indirect 0x20 7) (.imm 2) (r 0)) = some .E7 := by decide

/-- 45_resolution.md rules R260, R267: what `E2`, `E4` and `W4` name. -/
theorem test_named_locations :
    (after (step (atTask .rev5 (.scan [] [.arch 5 (some 9)] (some 5))))).map (fun s => s.fatal) =
      some (some ⟨.E2, .location (.source 9), .source 9⟩) ∧
    (after (step { atTask .rev5 (.scan [] [.start "a" (some 9)] none) with entry := some "b" })).map (fun s => s.fatal) =
      some (some ⟨.E4, .location (.source 9), .source 9⟩) ∧
    (after (exec .rets { atInsn .rev5 .rets with
        records := [.insn ⟨"calls", 4, .value 0, .value 0, .value 0, none, true, false, none⟩] })).map (fun s => s.warnings) =
      some [⟨.W4, .location (.source 7), .source 7⟩] := by decide

/-- 30_encoding.md rules R100, R101: the value of a family is a parameter, for the encoder and the decoder alike. -/
theorem test_family_parameter :
    Decode.encode { Params.default with opcodes := { srx := 0xA } } .rev5
        (.srx (num 15) (num 0) (spr 0x06B) (.imm 0) (r 5)) = [0x0000AF086BC00BC5] ∧
    (Decode.decode { Params.default with opcodes := { srx := 0xA } } false .rev5 0x0000AF086BC00BC5).toOption =
      some (.srx (num 15) (num 0) (spr 0x06B) (.imm 0) (r 5)) := by decide

/-! ### Ill-formed instructions, one for each check of WellFormed.lean, and the code it draws -/

theorem test_illFormed_immediate : illFormed (.add (r 1) (.imm 512) (r 2)) = true ∧
    fatalOf .rev5 (.add (r 1) (.imm 512) (r 2)) = some .E13 := by decide

theorem test_illFormed_gpr : illFormed (.add (r 64) (r 1) (r 2)) = true ∧
    fatalOf .rev5 (.add (r 64) (r 1) (r 2)) = some .E7 := by decide

theorem test_illFormed_spr : illFormed (.add (spr 512) (r 1) (r 2)) = true ∧
    fatalOf .rev5 (.add (spr 512) (r 1) (r 2)) = some .E7 := by decide

theorem test_illFormed_offr : illFormed (.add (.reg .offr 0) (r 1) (r 2)) = true ∧
    fatalOf .rev5 (.add (.reg .offr 0) (r 1) (r 2)) = some .E15 := by decide

theorem test_illFormed_indirect : illFormed (.add (.indirect 0 7) (r 1) (r 2)) = true := by decide

theorem test_illFormed_address : illFormed (.add (.address 1) (r 1) (r 2)) = true ∧
    illFormed (.add (r 1) (r 1) (.address 4096)) = true ∧
    fatalOf .rev5 (.add (r 1) (r 1) (.address 4096)) = some .E16 := by decide

theorem test_illFormed_raw : illFormed (.add (.raw 0x1000) (r 1) (r 2)) = true ∧
    fatalOf .rev5 (.add (.raw 0x1000) (r 1) (r 2)) = some .E22 := by decide

theorem test_illFormed_linkReg : illFormed (.add (.linkReg 1) (r 1) (r 2)) = true := by decide

theorem test_illFormed_number : illFormed (.add (num 1) (r 1) (r 2)) = true := by decide

/-- 40_alu.md rules R137, R138, R144. -/
theorem test_illFormed_pair : illFormed (.sub (.direct 1) (.direct 2) (r 0)) = true ∧
    illFormed (.addcDot (spr 0x06B) (spr 0x06C) (r 2)) = true ∧
    illFormed (.and (spr 0x100) (.imm 0xFF) (spr 0x101)) = false := by decide

theorem test_illFormed_target : illFormed (.js (r 1) (r 2) (r 3)) = true ∧ illFormed (.js (r 1) (r 2) (tgt 4096)) = true ∧
    illFormed (.calls (.raw 0x1000)) = true ∧ illFormed (.jmp (.imm 1)) = true := by decide

theorem test_illFormed_auxiliary : illFormed (.srx (num 16) (num 0) (r 1) (r 2) (r 3)) = true ∧
    illFormed (.srx (num 0) (num (-1)) (r 1) (r 2) (r 3)) = true ∧
    illFormed (.jext (.imm 256) (r 1) (r 2) (tgt 3)) = true ∧ illFormed (.jext (r 1) (r 1) (r 2) (tgt 3)) = true := by decide

theorem test_illFormed_linkSlot : illFormed (.call (.linkReg 4) (tgt 0)) = true ∧
    illFormed (.ret (.raw 0x1000) (.linkReg 0) (.linkReg 0)) = true ∧
    illFormed (.ret (.linkReg 0) (r 0) (.linkReg 0)) = true := by decide

theorem test_illFormed_mask : illFormed (.jand (.imm 0x300) (.imm 0x300) (tgt 0)) = true ∧
    illFormed (.jand (r 1) (.imm 0x505) (tgt 0)) = true ∧ illFormed (.jnand (r 1) (.imm 0x18000) (tgt 0)) = true := by decide

theorem test_illFormed_mov : illFormed (.mov (.imm 0x8000) (r 1)) = true ∧ illFormed (.mov (.imm 0x1234) (num 1)) = true ∧
    (Instr.mov (.imm 0x1234) (.address 1)).wellFormed Params.default .rev5 = true ∧
    (Instr.mov (.imm 0x1234) (.address 1)).wellFormed { Params.default with movEmul := .orLoThenOrxHi } .rev5 = false := by
  decide

theorem test_illFormed_rawOpcode : illFormed (.raw 0x1000 (r 1) (r 2) (r 3)) = true ∧
    fatalOf .rev5 (.raw 0x1000 (r 1) (r 2) (r 3)) = some .E22 := by decide

theorem test_notCanonical : (Instr.add (.direct 0x800) (r 1) (r 2)).canonical Params.default false .rev5 = false ∧
    (Instr.ret (.raw 1) (.linkReg 0) (.linkReg 0)).canonical Params.default false .rev5 = false ∧
    (Instr.raw 0x101 (.raw 0) (.raw 0) (.raw 0)).canonical Params.default false .rev5 = false ∧
    (Instr.raw 0x1FF (r 0) (.raw 0) (.raw 0)).canonical Params.default false .rev5 = false ∧
    (Instr.raw 0x1FF (r 0) (r 0) (r 0)).canonical Params.default true .rev5 = true ∧
    (Instr.jext (.imm 1) (r 0) (r 0) (tgt 0)).canonical Params.default false .rev5 = false := by decide

/-! ### The decoder, the serializer and the fetch, one step each -/

/-- 43_call_ret_nap.md rule R233: a `calls` word with slot 0 = 5 draws `W7`. -/
theorem test_calls_checked : delivery .rev5 0x0000004005000000 = some (none, [.W7], [0]) := by decide

/-- 47_decoder.md rule R320: a target beyond the only instruction is `E18`. -/
theorem test_target_range : delivery .rev5 0x000077FBC0BC0003 = some (some .E18, [], []) := by decide

/-- 47_decoder.md rule R312: bit 48 of a Rev5 word is `E17`. -/
theorem test_wide_word : (after (step (atTask .rev5 (.unpack [0, 0, 0, 0, 0, 1, 0, 0])))).map (fun s => s.fatal) =
    some (some ⟨.E17, .value 0, .word 0⟩) := by decide

/-- The word of `mul r1, r2, r3` in the table's numbering (40_alu.md rule R133), fetched and run as the first after reset. -/
theorem test_fetch_after_reset :
    decodeTableWord 48 0xBC3BC2BC1101 = some (.mul (r 1) (r 2) (r 3)) ∧
    (after (step (State.reset.withFetchWord 48 0xBC3BC2BC1101))).map (fun s => (s.decoded, s.task, s.fatal)) =
      some ([(0, .mul (r 1) (r 2) (r 3))], .classify 1, none) := by decide

/-- 48_initvals.md rule R357: an unaligned `SHM32`. -/
theorem test_shm32_unaligned : (after (step { State.reset with task := .expand [.shm32 1 0x42 0xAABBCCDD] 0 })).map
    (fun s => s.writes) =
      some [⟨0x160, 4, 0x10010⟩, ⟨0x166, 2, 0xCCDD⟩, ⟨0x160, 4, 0x10011⟩, ⟨0x164, 2, 0xAABB⟩] := by decide

/-- 93_implementation_defined.md I28: the layout of the SHM control word is a parameter. -/
theorem test_shmControl_parameter : shmControlWord {} 1 0x42 = 0x00010010 ∧
    shmControlWord { routingShift := 24, indexShift := 4, offsetShift := 1 } 1 0x42 = 0x01000210 := by decide

/-! ### Witnesses: the hypotheses of each statement for the provers are met, each clause at a boundary -/

/-- The encoder at one statement of an instruction: the hypotheses every generation statement shares. -/
theorem witness_generation (i : Instr) : (atInsn .rev5 i).task =
      .generate (.insn (Statements.mnemonicOf i) (Statements.operandsOf i) (some 7) :: []) ∧
    (atInsn .rev5 i).cfg.arch = some .rev5 ∧ (atInsn .rev5 i).cfg.params = Params.default := ⟨rfl, rfl, rfl⟩

/-- The decoder at one word: the hypotheses every delivery statement shares. -/
theorem witness_delivery (w : Word) : (State.reset.atWord .rev5 w).task = .classify 0 ∧
    (State.reset.atWord .rev5 w).cfg.arch = some .rev5 ∧ (State.reset.atWord .rev5 w).words[0]? = some w :=
  ⟨rfl, rfl, rfl⟩

theorem witness_RequestedRunSeesNothingOfAnEarlierRun :
    State.reset.task = .idle ∧
    ({ State.reset with requests := [.runEnc []] } : State).requests = .runEnc [] :: [] ∧
    ({ State.reset with requests := [.runDec .rev5 []] } : State).requests = .runDec .rev5 [] :: [] ∧
    ({ State.reset with requests := [.runIvs "iv" []] } : State).requests = .runIvs "iv" [] :: [] := by decide

theorem witness_HostWritesTheConfiguration :
    State.reset.task = .idle ∧
    ({ State.reset with requests := [.setOutFmt .rawLe32] } : State).requests = .setOutFmt .rawLe32 :: [] ∧
    ({ State.reset with requests := [.setIvFmt .raw] } : State).requests = .setIvFmt .raw :: [] ∧
    ({ State.reset with requests := [.setTypedRaw true] } : State).requests = .setTypedRaw true :: [] ∧
    (atTask .rev5 .elide).task ≠ .idle ∧ (after (step (atTask .rev5 .elide))).isSome = true := by decide

theorem witness_FatalErrorStopsTheUnit : State.reset.requests = [] := by decide

theorem witness_ImmediatePredicatesAreTheStatedRanges :
    Flags.isValidImmediate .rev5 511 = true ∧ Flags.isValidImmediate .rev5 (-512) = true ∧
    Flags.isValidImmediate .rev5 512 = false ∧ Flags.isValidImmediate .rev5 (-513) = false ∧
    Flags.isValidImmediate .rev15 1023 = true ∧ Flags.isValidImmediate .rev15 (-1024) = true ∧
    Flags.isValidImmediate .rev15 1024 = false ∧ Flags.isPossibleImmediate 32767 = true ∧
    Flags.isPossibleImmediate (-32768) = true ∧ Flags.isPossibleImmediate 32768 = false := by decide

theorem witness_FieldClassesPartitionTheValues :
    (0xFFF < 2 ^ Config.fw .rev5 ∧ 0x1FFF < 2 ^ Config.fw .rev15) ∧
    [0x7FF, 0x800, 0x9FF, 0xA00, 0xBBF, 0xBC0, 0xBFF, 0xC00].map (Decode.decOp Params.default .rev5) =
      [.direct 0x7FF, spr 0, spr 511, .indirect 0 0, .indirect 63 6, r 0, r 63, .imm 0] ∧
    [0xFFF, 0x1000, 0x13FF, 0x1400, 0x1440, 0x177F, 0x1780, 0x17FF, 0x1800].map (Decode.decOp Params.default .rev15) =
      [.direct 0xFFF, spr 0, spr 1023, .indirect 0 0, .raw 0x1440, .raw 0x177F, r 0, r 127, .imm 0] := by decide

theorem witness_MemoryOperandChecksInOrder :
    ((encIn Params.default .rev5 (.indirect 64 6)).events.length = 2 ∧
      (encIn Params.default .rev5 (.indirect 63 6)).events.length = 1) ∧
    (encIn Params.default .rev5 (.direct 2048)).events.length = 1 ∧
    (encIn Params.default .rev5 (.direct 2047)).events.length = 0 := by decide

theorem witness_WideWordIsRefused (w : Word) :
    (atTask .rev5 (.unpack (Decode.wordBytes .b43 w ++ []))).task =
        .unpack (Decode.wordBytes (atTask .rev5 (.unpack (Decode.wordBytes .b43 w ++ []))).cfg.outFmt w ++ []) ∧
      (atTask .rev5 (.unpack (Decode.wordBytes .b43 w ++ []))).cfg.arch = some .rev5 := ⟨rfl, rfl⟩

theorem witness_WideWordIsRefused_clauses : (0x0000FFFFFFFFFFFF : Word).toNat < 2 ^ 48 ∧
    2 ^ 48 ≤ (0x0001000000000000 : Word).toNat ∧ (0x0007FFFFFFFFFFFF : Word).toNat < 2 ^ 51 ∧
    2 ^ 51 ≤ (0x0008000000000000 : Word).toNat := by decide

theorem witness_DecodeOfEncodeIsTheInstruction :
    (Instr.add (.indirect 63 6) (.direct 2047) (r 63)).canonical Params.default false .rev5 = true ∧
    (Instr.jext (num 255) (.imm (-512)) (spr 511) (tgt 4095)).canonical Params.default false .rev5 = true ∧
    (Instr.raw 0xFFF (.raw 0x1FFF) (.raw 0) (.raw 0)).canonical Params.default false .rev15 = true ∧
    (Instr.raw 0xFFF (r 127) (.raw 0x1440) (.imm 1023)).canonical Params.default true .rev15 = true := by decide

theorem witness_DecodedInstructionIsCanonical :
    reads .rev5 0x0000FFFFFFFFFFFF = some (.raw 0xFFF (.raw 0xFFF) (.raw 0xFFF) (.raw 0xFFF)) := by decide

theorem witness_AssembledWordReassembles :
    (Instr.raw 0x101 (r 63) (.raw 0xFFF) (.direct 0x800)).wellFormed Params.default .rev5 = true ∧
    resolvedInstr (.raw 0x101 (r 63) (.raw 0xFFF) (.direct 0x800)) = true ∧ 0x101 ∉ fixedSlotOpcodes ∧
    Decode.encode Params.default .rev5 (.raw 0x101 (r 63) (.raw 0xFFF) (.direct 0x800)) = [0x0000101BFFFFF000] := by decide

/-- 47_decoder.md rule R318: raw fields that decode to a pair the encoder refuses (30_encoding.md rule R82). -/
theorem test_reassembly_refused :
    words .rev5 (.mul (.raw 0) (.raw 1) (r 1)) = some [some 0x0000101000001BC1] ∧
    reads .rev5 0x0000101000001BC1 = some (.mul (.direct 0) (.direct 1) (r 1)) ∧
    fatalOf .rev5 (.mul (.direct 0) (.direct 1) (r 1)) = some .E6 := by decide

/-- 30_encoding.md rule R93: an `Address` in slot 0 or 1 is `E15`. -/
theorem test_address_in_slot : fatalOf .rev5 (.add (.address 1) (r 1) (r 2)) = some .E15 ∧
    fatalOf .rev15 (.add (r 1) (.address 1) (r 2)) = some .E15 := by decide

theorem witness_StepRunsTheDecodedWord : Decode.decode (State.reset.atWord .rev5 0x0000101BC1BC2BC3).cfg.params
    (State.reset.atWord .rev5 0x0000101BC1BC2BC3).cfg.decTypedRaw .rev5 0x0000101BC1BC2BC3 =
      .ok (.mul (r 1) (r 2) (r 3)) := by rfl

theorem witness_StepRunsTheCurrentStatement :
    Statements.ofParts (.name "add.") [r 1, .imm 1, r 2] = some (.addDot (r 1) (.imm 1) (r 2)) ∧
    Statements.ofParts (.name "add.") [r 1, .imm 1] = none ∧ Statements.ofParts (.name "ldr") [r 1] = none ∧
    Statements.ofParts (.raw 0x1000) [r 1, r 2, r 3] = some (.raw 0x1000 (r 1) (r 2) (r 3)) ∧
    (atTask .rev5 (.generate [.label "a" none])).task = .generate (.label "a" none :: []) ∧
    (atTask .rev5 (.generate [.arch 5 none])).task = .generate (.arch 5 none :: []) ∧
    (atTask .rev5 (.generate [.start "a" none])).task = .generate (.start "a" none :: []) ∧
    (atTask .rev5 (.generate [])).task = .generate [] := by decide

theorem witness_StandardInstructionsGenerate :
    WellFormed.okStd3 Params.default .rev5 (r 63) (.imm (-512)) (.address 4095) = true ∧
    WellFormed.okStd3 Params.default .rev5 (.indirect 64 6) (spr 511) (.labelRef "L" .forward) = true := by decide

theorem witness_TkipInstructionsGenerate : WellFormed.okIn Params.default .rev5 (.direct 2048) = true ∧
    WellFormed.okOut Params.default .rev5 (.raw 0xFFF) = true := by decide

theorem witness_ExtendedInstructionsGenerate :
    (Numeral (num 15) 15 ∧ Numeral (.imm 0) 0 ∧ Numeral (num 255) 255) ∧
    WellFormed.okStd3 Params.default .rev5 (spr 0) (.imm 511) (r 0) = true ∧
    WellFormed.okCjmp Params.default .rev5 (spr 0) (.direct 1) (.address 4095) = true :=
  ⟨⟨.inl rfl, .inr ⟨0, rfl, rfl⟩, .inl rfl⟩, by decide⟩

theorem witness_ConditionalJumpsGenerate :
    NativeMask .rev5 (r 0) (.imm 511) ∧ NativeMask .rev5 (.imm 512) (.imm 0) ∧ NativeMask .rev5 (r 0) (spr 0) ∧
    WellFormed.okCjmp Params.default .rev5 (r 0) (.imm 511) (.labelRef "L" .absolute) = true :=
  ⟨.inr (.inl (by decide)), .inr (.inl (by decide)), .inr (.inr (by decide)), by decide⟩

theorem witness_WideMaskJumpsAreEmulated :
    (maskImm 1 9 = 512 ∧ maskImm 1 15 = -32768 ∧ maskImm 15 0 = 32767) ∧
    Flags.isValidImmediate .rev5 (maskImm 1 9) = false ∧ Flags.isValidImmediate .rev15 (maskImm 1 15) = false ∧
    Flags.isImm (.direct 2048) = false ∧ WellFormed.okIn Params.default .rev5 (.direct 2048) = true ∧
    WellFormed.okTarget .rev5 (.address 4095) = true := by decide

theorem witness_UnencodableMaskJumpsAreFatal :
    (Flags.isValidImmediate .rev5 512 = false ∧ Flags.isImm (r 0) = false) ∧
    (Flags.isPossibleImmediate 0x8000 = false ∧ Flags.isValidImmediate .rev5 0x8000 = false) ∧
    (Flags.isPossibleImmediate 0x505 = true ∧ Flags.isValidImmediate .rev5 0x505 = false) ∧
    ∀ w sh : Nat, (0x505 : Imm).toNat % 65536 ≠ (2 ^ w - 1) * 2 ^ sh := by
  refine ⟨by decide, by decide, by decide, fun w sh h => ?_⟩
  have h5 : (2 ^ w - 1) * 2 ^ sh = 0x505 := h.symm
  have hsh : sh = 0 := by
    rcases sh with _ | n
    · rfl
    · rw [pow_succ, ← mul_assoc] at h5; omega
  subst hsh
  have hw : w < 11 := by
    by_contra hc
    have : 2 ^ 11 ≤ 2 ^ w := Nat.pow_le_pow_right (by decide) (by omega)
    omega
  interval_cases w <;> omega

theorem witness_CallsGenerate : WellFormed.okTarget .rev5 (.raw 0xFFF) = true ∧
    WellFormed.okLr Params.default .rev5 (.linkReg 3) = true ∧ WellFormed.okLr Params.default .rev5 (.raw 0xFFF) = true := by
  decide

theorem witness_ReturnsAndNapGenerate : WellFormed.okLr Params.default .rev5 (.linkReg 0) = true ∧
    WellFormed.okLr Params.default .rev5 (.linkReg 3) = true ∧ WellFormed.okLr Params.default .rev5 (.raw 4) = true := by
  decide

/-- 45_resolution.md rule R267: label records are skipped, and the entry jump is not counted. -/
theorem test_afterJump :
    let jump (isEntry : Bool) : Record := .insn ⟨"calls", 4, .value 0, .value 0, .value 0, none, true, isEntry, none⟩
    let plain : Record := .insn ⟨"nap", 1, .value 0, .value 0, .value 0, none, false, false, none⟩
    [[jump false, .label "a" none none], [jump true], [jump false, plain], [jump true, .label "a" none none, jump false]].map
      (fun rs => warnsReturnAfterJump rs "ret") = [true, false, false, true] := by decide

theorem witness_RawInstructionGenerates : (0xFFF : Nat) ≤ 0xFFF ∧ 0xFFF < (0x1000 : Nat) ∧
    WellFormed.okStd3 Params.default .rev5 (.raw 0) (.raw 0xFFF) (.address 0) = true := by decide

theorem witness_MovGenerates :
    (Flags.isValidImmOperand .rev5 (.imm 511) = true ∧ WellFormed.okIn Params.default .rev5 (.imm 511) = true) ∧
    (Flags.isImm (r 63) = false ∧ WellFormed.okIn Params.default .rev5 (r 63) = true) ∧
    (Flags.isValidImmediate .rev5 512 = false ∧ Flags.isPossibleImmediate 512 = true ∧
      Params.default.movEmul = .singleOrx ∧ WellFormed.okOut Params.default .rev5 (.address 1) = true) ∧
    WellFormed.okIn { Params.default with movEmul := .orLoThenOrxHi } .rev5 (spr 0) = true ∧
    Flags.isPossibleImmediate (-32769) = false := by decide

theorem witness_JmpGenerates : WellFormed.okTarget .rev5 (.labelRef "L" .backward) = true := by decide

theorem witness_RestrictedPairsAreFatal :
    (WellFormed.okAux 15 (num 15) = true ∧ WellFormed.okAux 255 (.imm 255) = true ∧ (0xFFF : Nat) ≤ 0xFFF) ∧
    (WellFormed.okIn Params.default .rev5 (.direct 0) = true ∧ WellFormed.okIn Params.default .rev5 (.indirect 0 6) = true ∧
      Flags.isMemory (.direct 0) = true ∧ Flags.isMemory (.indirect 0 6) = true) ∧
    (WellFormed.okIn Params.default .rev5 (spr 511) = true ∧ Flags.isSpr (spr 511) = true) := by decide

theorem witness_GenerationAcceptsExactlyTheWellFormed :
    (Instr.add (r 63) (.imm (-512)) (r 0)).wellFormed Params.default .rev5 = true ∧
    (Instr.add (r 64) (.imm (-512)) (r 0)).wellFormed Params.default .rev5 = false := by decide

theorem witness_GenerationFrame :
    (after (exec (.add (r 1) (.direct 2048) (r 2)) (atInsn .rev5 (.add (r 1) (.direct 2048) (r 2))))).isSome = true ∧
    (after (exec (.add (r 64) (r 1) (r 2)) (atInsn .rev5 (.add (r 64) (r 1) (r 2))))).map (fun s => s.task) =
      some .idle := by decide

theorem witness_GeneratedRecordsPackToTheEncoding :
    (Instr.mov (.imm 0x1234) (r 0)).wellFormed Params.default .rev5 = true ∧
    resolvedInstr (.mov (.imm 0x1234) (r 0)) = true ∧ words .rev5 (.mov (.imm 0x1234) (r 0)) =
      some ((Decode.encode Params.default .rev5 (.mov (.imm 0x1234) (r 0))).map some) := by decide

theorem witness_JumpsAreDelivered : 0 < (State.reset.atWord .rev5 0).count ∧ (State.reset.atWord .rev5 0).count ≤ 1 := by
  decide

theorem witness_CallsAndReturnsAreDelivered :
    delivery .rev5 0x0000002004005000 = some (none, [.W7, .W7], [0]) ∧
    delivery .rev5 0x0000002004005001 = some (some .E18, [.W7], []) ∧
    delivery .rev5 0x0000003000004003 = some (none, [.W7], []) := by decide

theorem witness_DeliveryFrame : (after (exec .nap (State.reset.atWord .rev5 0x0000001000000000))).map (fun s => s.task) =
      some (.classify 1) ∧
    (after (exec (.calls (tgt 1)) (State.reset.atWord .rev5 0x0000004000000001))).map (fun s => s.task) = some .idle := by
  decide

theorem witness_ArchitectureValueIsNormalized :
    [5, 15, 6, 14, 16, 4, -1].map (fun n => (after (step { State.reset with task := .scan [] [] (some n) })).map
      fun s => (s.cfg.arch, s.warnings.length, s.fatal.isSome)) =
    [some (some .rev5, 0, false), some (some .rev15, 0, false), some (some .rev5, 1, false), some (some .rev5, 1, false),
      some (some .rev15, 1, false), some (none, 0, true), some (none, 0, true)] := by decide

theorem witness_DirectivesAreCounted :
    ({ State.reset with task := .scan [] [.arch 5 none] (some 5) } : State).task = .scan [] (.arch 5 none :: []) (some 5) ∧
    ({ State.reset with task := .scan [] [.arch 5 none] none } : State).task = .scan [] (.arch 5 none :: []) none ∧
    (({ State.reset with task := .scan [] [.start "a" none] none, entry := some "b" } : State).task =
        .scan [] (.start "a" none :: []) none ∧
      ({ State.reset with task := .scan [] [.start "a" none] none, entry := some "b" } : State).entry = some "b") ∧
    (({ State.reset with task := .scan [] [.start "a" none] none } : State).task = .scan [] (.start "a" none :: []) none ∧
      ({ State.reset with task := .scan [] [.start "a" none] none } : State).entry = none) ∧
    ({ State.reset with task := .scan [] [.insn (.name "nap") [] none] none } : State).task =
      .scan [] (.insn (.name "nap") [] none :: []) none ∧
    ({ State.reset with task := .scan [] [.label "a" none] none } : State).task = .scan [] (.label "a" none :: []) none ∧
    ({ State.reset with task := .scan [] [] none } : State).task = .scan [] [] none := by decide

theorem witness_EntryJumpIsPlacedFirst :
    (atTask .rev5 (.place [])).task = .place [] ∧ (atTask .rev5 (.place [])).cfg.arch = some .rev5 ∧
    (atTask .rev5 (.place [])).entry = none ∧
    ({ atTask .rev5 (.place []) with entry := some "a" } : State).entry = some "a" := by decide

/-- A jump to `a` as the entry jump, its address assigned. -/
def entryJump : InsnRec := ⟨"jext", 0x77F, .value 0xBC0, .value 0xBC0, .pending (.label "a" .absolute), some 0, true, true, none⟩

/-- The encoder at the elision test, with an entry jump before `rs`. -/
def atElide (rs : List Record) : State :=
  { atTask .rev5 .elide with records := .insn entryJump :: rs, entry := some "a" }

theorem witness_EntryJumpToTheNextAddressIsElided :
    ((atElide []).task = .elide ∧ (atElide []).records = .insn entryJump :: [] ∧ entryJump.isEntryJump = true ∧
      (atElide []).entry = some "a") ∧
    definitions (atElide [.label "a" (some 1) none]).records "a" = [(1, some 1)] ∧
    definitions (atElide [.label "a" (some 2) none]).records "a" = [(1, some 2)] ∧
    definitions (atElide []).records "a" = [] ∧
    1 < (definitions (atElide [.label "a" (some 1) none, .label "a" (some 1) none]).records "a").length := by decide

theorem witness_EntryJumpToTheNextAddressIsElided_noEntryJump :
    (atTask .rev5 .elide).task = .elide ∧ ∀ rec, .insn rec ∈ (atTask .rev5 .elide).records → rec.isEntryJump = false :=
  ⟨rfl, fun _ h => nomatch h⟩

/-- Two definitions of `a` and one of `b`. -/
def threeLabels : List Record := [.label "a" (some 3) none, .label "b" (some 4) none, .label "a" (some 5) none]

theorem witness_LookupFindsTheStatedDefinition :
    (∀ rec ∈ threeLabels, (recordAddr rec).isSome = true) ∧
    [lookup threeLabels 1 "b" .absolute, lookup threeLabels 1 "c" .absolute, lookup threeLabels 1 "a" .absolute,
        lookup threeLabels 1 "a" .backward, lookup threeLabels 0 "a" .backward, lookup threeLabels 1 "a" .forward,
        lookup threeLabels 2 "a" .forward].map Except.toOption =
      [some 4, none, none, some 3, none, some 5, none] := by decide

/-- The encoder at the resolution of the record at position `k`, a jump to `name` between the labels of `threeLabels`. -/
def atResolve (k : Nat) (name : String) : State :=
  { atTask .rev5 (.resolve k) with
    records := threeLabels ++ [.insn { entryJump with f2 := .pending (.label name .absolute) }] }

theorem witness_ResolvedReferenceField :
    ((lookup threeLabels 1 "b" .absolute).toOption = some 4 ∧ (0 : Nat) < 3 ∧ (2 : Nat) < 3 ∧
      resolvedField .rev5 0 0x400 = 0xC00 ∧ resolvedField .rev5 2 0x400 = 0x400 ∧ resolvedField .rev15 1 0x7FF = 0x1FFF) ∧
    ((atResolve 3 "b").task = .resolve 3 ∧ (atResolve 3 "b").cfg.arch = some .rev5 ∧
      (atResolve 3 "b").records[3]? = some (.insn { entryJump with f2 := .pending (.label "b" .absolute) })) ∧
    (((resolveField .rev5 (atResolve 3 "b").records 3 0 entryJump.f0).toOption = some (.value 0xBC0)) ∧
      ((resolveField .rev5 (atResolve 3 "b").records 3 2 (.pending (.label "b" .absolute))).toOption = some (.value 4))) ∧
    ((lookup (atResolve 3 "c").records 3 "c" .absolute).toOption = none ∧
      (lookup (atResolve 3 "a").records 3 "a" .absolute).toOption = none ∧
      ∀ rec ∈ (atResolve 3 "c").records, (recordAddr rec).isSome = true) ∧
    (atResolve 2 "b").records[2]? = some (.label "a" (some 5) none) ∧ (atResolve 4 "b").records[4]? = none := by
  decide

theorem witness_EmissionBeginsWithTheHeader :
    (atTask .rev5 .emitHead).task = .emitHead ∧ (atTask .rev5 .emitHead).cfg.arch = some .rev5 ∧
    (atTask .rev5 .emitHead).cfg.params = { Params.default with maxInsnsRev15 := none } ∧
    (after (step { atTask .rev5 .emitHead with count := 4097 })).map (fun s => (s.warnings.length, s.out)) =
      some (1, [0x75, 1, 0, 0, 0, 0, 0x80, 8]) ∧
    (after (step { atTask .rev5 .emitHead with count := 4096 })).map (fun s => s.warnings.length) = some 0 ∧
    [4, 5].map (fun n => (after (step { atTask .rev15 .emitHead with
        cfg := { onArch .rev15 with params := { Params.default with maxInsnsRev15 := some 4 } }, count := n })).map
          fun s => s.warnings.length) = [some 0, some 1] := by decide

/-- The encoder at the emission of the first of `rs`. -/
def atEmit (rs : List Record) : State := { atTask .rev5 (.emitWord 0) with records := rs }

/-- A resolved record with these fields. -/
def resolvedRecord (v0 v1 v2 : Nat) : InsnRec := ⟨"mul", 0x101, .value v0, .value v1, .value v2, some 0, false, false, none⟩

theorem witness_EmissionAppendsOneWordPerInstruction :
    (atEmit []).task = .emitWord 0 ∧ (atEmit []).cfg.arch = some .rev5 ∧
    (atEmit [.insn (resolvedRecord 0 0 0xFFF)]).records[0]? = some (.insn (resolvedRecord 0 0 0xFFF)) ∧
    (0xFFF < 2 ^ Config.fw .rev5 ∧ ¬ 0x1000 < 2 ^ Config.fw .rev5) ∧
    (atEmit [.label "a" (some 0) none]).records[0]? = some (.label "a" (some 0) none) ∧
    (atEmit []).records[0]? = none := by decide

theorem witness_MalformedStreamIsRefused :
    ((atTask .rev5 (.ingest [])).task = .ingest [] ∧ (atTask .rev5 (.ingest [])).cfg.params = Params.default) ∧
    (after (step (atTask .rev5 (.ingest [0x75, 1, 0, 0, 0, 0, 0, 0])))).map (fun s => s.task) = some (.unpack []) ∧
    (after (step (atTask .rev5 (.ingest [0x75, 1, 0, 0, 0, 0, 0, 8])))).map (fun s => s.fatal.isSome) = some true := by
  decide

theorem witness_LabelsAreNamedInAddressOrder : [2, 7].Pairwise (· < ·) ∧ labelName [2, 7] 2 = "L0" ∧
    labelName [2, 7] 7 = "L1" := by decide

/-- The decoder with one delivered instruction and its marker. -/
def atBuild (t : Task) (i : Instr) : State := { atTask .rev5 t with decoded := [(0, i)], targets := [0], count := 1 }

theorem witness_StatementStreamIsBuiltInOrder :
    ((atTask .rev5 .nameLabels).task = .nameLabels ∧ (atTask .rev5 .nameLabels).cfg.arch = some .rev5) ∧
    ((atBuild (.build 0) (.je (r 0) (r 1) (tgt 0))).task = .build 0 ∧
      (atBuild (.build 0) (.je (r 0) (r 1) (tgt 0))).decoded[0]? = some (0, .je (r 0) (r 1) (tgt 0))) ∧
    (atBuild (.build 1) .nap).decoded[1]? = none ∧
    (∀ m n c x y lr, ∀ mk ∈ targetForms m n c x y lr, ∀ t, Instr.add (r 0) (r 1) (r 2) ≠ mk (.address t)) :=
  ⟨⟨rfl, rfl⟩, ⟨rfl, rfl⟩, rfl, by simp [targetForms]⟩

theorem witness_InitvalOperationsExpand : (65535 : Nat) < 65536 ∧ (65534 % 4 = 2 ∧ 65532 % 4 = 0) ∧ (255 : Nat) < 256 ∧
    2 ^ 32 - 1 < 2 ^ 32 := by decide

theorem witness_InitvalArgumentsAreChecked :
    [.mmio16 0 65535, .mmio16 0 65536, .shm16 255 65534 65535, .shm16 256 0 0, .shm16 0 1 0, .tram (2 ^ 32) 0].map
      (fun op => checkArgs op) =
    [none, some ⟨.E20, .value 65536⟩, none, some ⟨.E20, .value 256⟩, some ⟨.E21, .value 1⟩,
      some ⟨.E20, .value 4294967296⟩] ∧
    (argumentChecks (.shm16 255 65534 65535)).all (·.1) = true ∧
    (argumentChecks (.shm16 255 65535 65536))[2]? = some (false, .E21, 65535) ∧
    ((argumentChecks (.shm16 255 65535 65536)).take 2).all (·.1) = true ∧
    (argumentChecks (.shm16 0 0 65536))[3]? = some (false, .E20, 65536) := by decide

/-- The serializer at the offset check of one write. -/
def atOffset (off : Nat) : State := { State.reset with writes := [⟨off, 2, 0⟩], task := .checkOffset 0 }

theorem witness_InitvalOffsetLimit : (atOffset 0x7FFF).task = .checkOffset 0 ∧
    (atOffset 0x7FFF).cfg.params = Params.default ∧ (atOffset 0x7FFF).writes[0]? = some ⟨0x7FFF, 2, 0⟩ ∧
    (atOffset 0x7FFF).writes[1]? = none ∧ ({ State.reset with task := .expand [] 0 } : State).task = .expand [] 0 ∧
    (∀ off v, InitvalOp.phy 1 2 ≠ .mmio16 off v) ∧ (∀ off v, InitvalOp.phy 1 2 ≠ .mmio32 off v) ∧
    (after (step (atOffset 0x7FFF))).map (fun s => s.fatal.isSome) = some false ∧
    (after (step (atOffset 0x8000))).map (fun s => s.fatal.isSome) = some true :=
  ⟨rfl, rfl, rfl, rfl, rfl, by simp, by simp, by decide, by decide⟩

theorem witness_InitvalRecordsReadBack :
    (({ State.reset with task := .ivsHead } : State).task = .ivsHead ∧ State.reset.cfg.params = Params.default ∧
      ({ atOffset 0 with task := .ivsRecord 0 } : State).task = .ivsRecord 0 ∧
      (atOffset 0).writes[0]? = some ⟨0, 2, 0⟩ ∧ State.reset.writes[0]? = none) ∧
    legacyRecord ⟨0x7FFF, 2, 0xFFFF⟩ = [0x7F, 0xFF, 0xFF, 0xFF] ∧
    legacyRecord ⟨0x7FFF, 4, 0xFFFFFFFF⟩ = [0xFF, 0xFF, 0xFF, 0xFF, 0xFF, 0xFF] ∧
    rawRecord ⟨0x7FFF, 2, 0x1234⟩ = [0xFF, 0x7F, 2, 0, 0x34, 0x12, 0, 0] := by decide

/-! Consistent states, and the ends of the three runs. -/

theorem witness_ResetStateIsConsistent : Consistent State.reset :=
  ⟨by decide, by decide, by simp [State.reset], by simp [State.reset], by simp [State.reset],
    by simp [StageConsistent, State.reset]⟩

/-- The encoder after the word of a program of one instruction. -/
def atLastWord : State :=
  { atTask .rev5 (.emitWord 1) with
    records := [.insn (resolvedRecord 0xBC1 0xBC2 0xBC3)]
    count := 1
    out := [0x75, 1, 0, 0, 0, 0, 0, 8, 0xC1, 0xBC, 0x2B, 0xC3, 0, 0, 0x10, 0x1B] }

theorem witness_CompletedMicrocodeLength : Consistent atLastWord ∧ atLastWord.task = .emitWord 1 ∧
    step atLastWord = .next atLastWord.complete ∧ Completed atLastWord.complete := by
  refine ⟨⟨by decide, by decide, by decide, by decide, by decide, ?_⟩, rfl, rfl, rfl, rfl, rfl⟩
  refine ⟨rfl, rfl, by decide, ?_, rfl, by simp [Resolved, atLastWord, atTask, resolvedRecord, isResolved, isValue]⟩
  intro j rec hj hr
  obtain rfl : j = 0 := by simp [atLastWord] at hj; omega
  obtain rfl : Record.insn (resolvedRecord 0xBC1 0xBC2 0xBC3) = rec := by simpa [atLastWord] using hr
  rfl

/-- The decoder after the last address of a stream of one instruction. -/
def atLastAddress : State :=
  { atBuild (.build 1) .nap with stmts := [.arch 5, .start "entry", .label "entry", .label "L0", .insn 0 .nap] }

theorem witness_CompletedStreamHasEveryAddressOnce : Consistent atLastAddress ∧ atLastAddress.task = .build 1 ∧
    step atLastAddress = .next atLastAddress.complete ∧ Completed atLastAddress.complete :=
  ⟨⟨by decide, by decide, by decide, by decide, by decide, ⟨by decide, by decide, by decide, by decide⟩⟩, rfl, rfl, rfl,
    rfl, rfl⟩

/-- The serializer after the record of a list of one write. -/
def atLastWrite (fmt : IvFmt) (out : List Byte) : State :=
  { State.reset with
    cfg := { Cfg.reset with ivFmt := fmt }
    writes := [⟨0x100, 2, 0x1234⟩]
    out := out
    task := .ivsRecord 1 }

theorem witness_CompletedInitvalsLength_legacy :
    let s := atLastWrite .legacy [0x69, 1, 0, 0, 0, 0, 0, 1, 1, 0, 0x12, 0x34]
    Consistent s ∧ s.task = .ivsRecord 1 ∧ step s = .next s.complete ∧ Completed s.complete :=
  ⟨⟨by decide, by decide, by decide, by decide, by decide, ⟨by decide, by decide, by decide⟩⟩, rfl, rfl, rfl, rfl, rfl⟩

theorem witness_CompletedInitvalsLength_raw :
    let s := atLastWrite .raw [0, 1, 2, 0, 0x34, 0x12, 0, 0]
    Consistent s ∧ s.task = .ivsRecord 1 ∧ step s = .next (s.emit rawTerminator).complete ∧
      Completed (s.emit rawTerminator).complete :=
  ⟨⟨by decide, by decide, by decide, by decide, by decide, ⟨by decide, by decide, by decide⟩⟩, rfl, rfl, rfl, rfl, rfl⟩

theorem witness_StepKeepsConsistency : atLastWord.cfg.params = Params.default ∧ Consistent atLastWord ∧
    step atLastWord = .next atLastWord.complete :=
  ⟨rfl, witness_CompletedMicrocodeLength.1, rfl⟩

theorem witness_RunsOnTheSameInputAgree :
    (({ State.reset with requests := [.runDec .rev5 []] } : State).task = .idle ∧
      ({ State.reset with requests := [.runDec .rev5 []], freeCount := 3, outValid := true } : State).requests =
        .runDec .rev5 [] :: []) ∧
    atLastWord.task ≠ .idle ∧ SameRun atLastWord { atLastWord with addr := 9, freeCount := 4, requests := [.setTypedRaw true] } :=
  ⟨by decide, by decide, rfl, fun _ => ⟨rfl, rfl⟩, fun _ h => nomatch h⟩

theorem witness_ResolutionCapIsNeverReached :
    (({ atTask .rev5 .startPass with passes := 2 } : State).task = .startPass ∧
      ({ atTask .rev5 .startPass with passes := 2 } : State).cfg.params.resolveCap <
        ({ atTask .rev5 .startPass with passes := 2 } : State).passes + 1) ∧
    atLastWord.cfg.params = Params.default ∧ Consistent atLastWord ∧ atLastWord.task ≠ .idle ∧
    step atLastWord = .next atLastWord.complete :=
  ⟨by decide, rfl, witness_CompletedMicrocodeLength.1, by decide, rfl⟩

end Sys2Proof.Tests
end

/-! What every step of a running unit keeps, stage by stage: the host's fields (10_state.md rule R30, 70_reset_and_hazards.md
rule R411) and the consistency of the state. -/

namespace Sys2Proof.Laws.Steps

open Sys2Proof Sys2Proof.Machine Sys2Proof.Safety Sys2Proof.Laws.Generation Sys2Proof.Laws.Exec

/-! ### Record lists -/

theorem map_set_of_eq {α β : Type} {f : α → β} {xs : List α} {k : Nat} {x x' : α} (hx : xs[k]? = some x)
    (hf : f x' = f x) : (xs.set k x').map f = xs.map f := by
  obtain ⟨hk, rfl⟩ := List.getElem?_eq_some_iff.1 hx
  rw [List.map_set, hf, ← List.getElem_map f (h := by simpa using hk), List.set_getElem_self]

theorem insnCount_of_map_eq {rs rs' : List Record} (h : rs'.map isInsn = rs.map isInsn) :
    insnCount rs' = insnCount rs := by
  have hcount (l : List Record) : insnCount l = (l.map isInsn).countP id := by
    rw [List.countP_map]; rfl
  rw [hcount, hcount, h]

theorem insnCount_take_of_map_eq {rs rs' : List Record} (h : rs'.map isInsn = rs.map isInsn) (j : Nat) :
    insnCount (rs'.take j) = insnCount (rs.take j) :=
  insnCount_of_map_eq (by rw [List.map_take, List.map_take, h])

theorem insnCount_take_succ {rs : List Record} {k : Nat} {r : Record} (hr : rs[k]? = some r) :
    insnCount (rs.take (k + 1)) = insnCount (rs.take k) + if isInsn r then 1 else 0 := by
  rw [List.take_add_one, hr, insnCount, List.countP_append]
  simp [insnCount, List.countP_singleton]

/-- Replacing record `k` by one of its kind that holds the right address keeps the addresses of all others. -/
theorem addressed_set {rs : List Record} {k n : Nat} {r r' : Record} (hr : rs[k]? = some r) (hi : isInsn r' = isInsn r)
    (ha : recordAddr r' = some (insnCount (rs.take k)))
    (h : ∀ j x, j < n → j ≠ k → rs[j]? = some x → recordAddr x = some (insnCount (rs.take j))) :
    Addressed (rs.set k r') n := by
  intro j x hj hx
  rw [insnCount_take_of_map_eq (map_set_of_eq hr hi)]
  by_cases hjk : j = k
  · subst hjk
    obtain ⟨hlt, -⟩ := List.getElem?_eq_some_iff.1 hr
    obtain rfl : r' = x := by simpa [hlt] using hx
    exact ha
  · rw [List.getElem?_set_ne (Ne.symm hjk)] at hx
    exact h j x hj hjk hx

theorem addressed_set_next {rs : List Record} {k : Nat} {r r' : Record} (h : Addressed rs k) (hr : rs[k]? = some r)
    (hi : isInsn r' = isInsn r) (ha : recordAddr r' = some (insnCount (rs.take k))) :
    Addressed (rs.set k r') (k + 1) :=
  addressed_set hr hi ha fun j x hj hjk => h j x (by omega)

theorem addressed_set_same {rs : List Record} {k : Nat} {r r' : Record} (h : Addressed rs rs.length)
    (hr : rs[k]? = some r) (hi : isInsn r' = isInsn r) (ha : recordAddr r' = recordAddr r) :
    Addressed (rs.set k r') (rs.set k r').length := by
  obtain ⟨hlt, -⟩ := List.getElem?_eq_some_iff.1 hr
  rw [List.length_set]
  exact addressed_set hr hi (ha.trans (h k r hlt hr)) fun j x hj _ => h j x hj

theorem resolved_set_next {rs : List Record} {k : Nat} {r' : Record} (h : Resolved rs k) (hr : isResolved r' = true) :
    Resolved (rs.set k r') (k + 1) := by
  intro x hx
  rw [List.take_add_one, List.take_set, List.set_eq_of_length_le (by simp), List.mem_append] at hx
  obtain hx | hx := hx
  · exact h x hx
  · rw [List.getElem?_set_self'] at hx
    cases hk : rs[k]? <;> simp [hk] at hx
    exact hx ▸ hr

theorem resolved_next {rs : List Record} {k : Nat} {r : Record} (h : Resolved rs k) (hr : rs[k]? = some r)
    (hres : isResolved r = true) : Resolved rs (k + 1) := by
  obtain ⟨hk, rfl⟩ := List.getElem?_eq_some_iff.1 hr
  simpa using resolved_set_next h hres

/-! ### The entry jump -/

theorem noEntry_nil : NoEntry [] := by simp [NoEntry]

theorem noEntry_of_map_eq {rs rs' : List Record} (h : rs'.map isEntryRecord = rs.map isEntryRecord) (hn : NoEntry rs) :
    NoEntry rs' := by
  have hmap (l : List Record) : NoEntry l ↔ ∀ b ∈ l.map isEntryRecord, b = false := by simp [NoEntry]
  rw [hmap] at hn ⊢
  rwa [h]

theorem entryFirst_of_map_eq {s t : State} (hm : t.records.map isEntryRecord = s.records.map isEntryRecord)
    (he : t.entry = s.entry) (h : EntryFirst s) : EntryFirst t := by
  obtain ⟨htail, hnone⟩ := h
  refine ⟨noEntry_of_map_eq ?_ htail, fun hn => noEntry_of_map_eq hm (hnone (he ▸ hn))⟩
  rw [List.map_tail, List.map_tail, hm]

theorem passCount_of_map_eq {s t : State} (hm : t.records.map isEntryRecord = s.records.map isEntryRecord)
    (hp : t.passes = s.passes) (h : PassCount s) : PassCount t := by
  unfold PassCount at *
  rw [hp]
  exact h.imp_right fun ⟨h2, hn⟩ => ⟨h2, noEntry_of_map_eq hm hn⟩

theorem entryFirst_append {s t : State} {rs : List Record} (hr : t.records = s.records ++ rs) (he : t.entry = s.entry)
    (hn : NoEntry rs) (h : EntryFirst s) : EntryFirst t := by
  obtain ⟨htail, hnone⟩ := h
  have happend {l : List Record} (hl : NoEntry l) : NoEntry (l ++ rs) := fun r hmem =>
    (List.mem_append.1 hmem).elim (hl r) (hn r)
  refine ⟨?_, fun h0 => hr ▸ happend (hnone (he ▸ h0))⟩
  rw [hr]
  cases hs : s.records with
  | nil => exact fun r hmem => hn r (List.mem_of_mem_tail hmem)
  | cons x xs =>
    rw [hs] at htail
    exact happend htail

/-- The entry jump, where there is one, is the first record: without it no entry jump is left. -/
theorem noEntry_eraseIdx {rs : List Record} {e : Nat} (h : NoEntry rs.tail)
    (he : rs.findIdx? isEntryRecord = some e) : NoEntry (rs.eraseIdx e) := by
  obtain ⟨hlt, hentry, -⟩ := List.findIdx?_eq_some_iff_getElem.1 he
  cases e with
  | zero => rwa [List.eraseIdx_zero]
  | succ e =>
    have hmem : rs[e + 1] ∈ rs.tail := by
      rw [← List.getElem_tail (h := by simp; omega)]
      exact List.getElem_mem _
    rw [h _ hmem] at hentry
    contradiction

theorem not_noEntry_of_findIdx? {rs : List Record} {e : Nat} (he : rs.findIdx? isEntryRecord = some e) : ¬ NoEntry rs := by
  obtain ⟨hlt, hentry, -⟩ := List.findIdx?_eq_some_iff_getElem.1 he
  intro h
  rw [h _ (List.getElem_mem hlt)] at hentry
  contradiction

/-! ### Lengths of the outputs -/

@[simp] theorem length_wordBytes (f : OutFmt) (w : Word) : (Decode.wordBytes f w).length = 8 := by
  cases f <;> rfl

@[simp] theorem length_header (p : Params) (type : Byte) (n : Nat) : (header p type n).length = 8 := rfl

theorem length_legacyRecord {w : Write} (h : w.size = 2 ∨ w.size = 4) :
    (legacyRecord w).length = recordLength .legacy w := by
  obtain h | h := h <;> simp [legacyRecord, recordLength, h, Decode.be16, Decode.be32]

@[simp] theorem length_rawRecord (w : Write) : (rawRecord w).length = 8 := rfl

theorem size_of_mem_expandShm16 {m : Mmio} {c : ShmControl} {r o v : Nat} {w : Write} (h : w ∈ expandShm16 m c r o v) :
    w.size = 2 ∨ w.size = 4 := by
  simp only [expandShm16, List.mem_cons, List.not_mem_nil, or_false] at h
  obtain rfl | rfl := h <;> simp

/-- Every raw write of an expansion has 2 or 4 bytes (48_initvals.md rules R353 to R358). -/
theorem size_of_mem_expandOp {m : Mmio} {c : ShmControl} {op : InitvalOp} {w : Write} (h : w ∈ expandOp m c op) :
    w.size = 2 ∨ w.size = 4 := by
  cases op with
  | shm16 routing off v => exact size_of_mem_expandShm16 h
  | shm32 routing off v =>
    simp only [expandOp] at h
    split at h
    · simp only [List.mem_cons, List.not_mem_nil, or_false] at h
      obtain rfl | rfl := h <;> simp
    · exact (List.mem_append.1 h).elim size_of_mem_expandShm16 size_of_mem_expandShm16
  | _ =>
    simp only [expandOp, List.mem_cons, List.not_mem_nil, or_false] at h
    rcases h with rfl | rfl <;> simp

/-! ### The statement stream -/

theorem streamAddresses_append (xs ys : List DecStmt) :
    streamAddresses (xs ++ ys) = streamAddresses xs ++ streamAddresses ys := List.filterMap_append

theorem streamAddresses_streamAt (ts : List Nat) (k : Nat) (i : Instr) : streamAddresses (streamAt ts k i) = [k] := by
  unfold streamAt
  split <;> rfl

/-- The classified statements stand at their own places. -/
theorem fst_of_decoded {s : State} (h : s.decoded.map Prod.fst = List.range s.decoded.length) {k : Nat} {d : Nat × Instr}
    (hd : s.decoded[k]? = some d) : d.1 = k := by
  obtain ⟨hk, rfl⟩ := List.getElem?_eq_some_iff.1 hd
  simpa [hk] using congrArg (·[k]?) h

/-! ### What a step of a running unit keeps -/

/-- The host's fields are kept: the pending requests, and `CFG` but for the revision (10_state.md rule R30). -/
structure HostKept (s t : State) : Prop where
  requests : t.requests = s.requests
  cfg : t.cfg = { s.cfg with arch := t.cfg.arch }

/-- What every stage of a unit is held to. -/
structure Sound (s t : State) : Prop where
  host : HostKept s t
  consistent : Consistent s → Consistent t

/-- The fields a stage leaves alone unless it ends the run or adds to an output of its unit. -/
structure Tracked where
  requests : List Request
  cfg : Cfg
  fatal : Option FatalDiag
  outValid : Bool
  targets : List Nat
  decoded : List (Nat × Instr)
  writes : List Write

/-- The fields of `Tracked`, the revision left out. -/
def tracked (s : State) : Tracked :=
  ⟨s.requests, { s.cfg with arch := none }, s.fatal, s.outValid, s.targets, s.decoded, s.writes⟩

theorem HostKept.of_tracked {s t : State} (h : tracked t = tracked s) : HostKept s t where
  requests := congrArg Tracked.requests h
  cfg := congrArg (fun x => { x.cfg with arch := t.cfg.arch }) h

theorem HostKept.trans {s t u : State} (h : HostKept s t) (k : HostKept t u) : HostKept s u where
  requests := k.requests.trans h.requests
  cfg := by rw [k.cfg, h.cfg]

theorem HostKept.params {s t : State} (h : HostKept s t) : t.cfg.params = s.cfg.params := by rw [h.cfg]

/-- The outputs listed by the three units are in order, whatever the stage. -/
structure Ordered (s : State) : Prop where
  targets : s.targets.Pairwise (· < ·)
  decoded : s.decoded.map Prod.fst = List.range s.decoded.length
  sizes : ∀ w ∈ s.writes, w.size = 2 ∨ w.size = 4

theorem ordered_of_consistent {s : State} (hc : Consistent s) : Ordered s := ⟨hc.targets, hc.decoded, hc.sizes⟩

theorem Ordered.of_tracked {s t : State} (h : tracked t = tracked s) (hs : Ordered s) : Ordered t := by
  simp only [tracked, Tracked.mk.injEq] at h
  obtain ⟨-, -, -, -, htargets, hdecoded, hwrites⟩ := h
  exact ⟨htargets ▸ hs.targets, hdecoded ▸ hs.decoded, hwrites ▸ hs.sizes⟩

/-- A block at rest is consistent when its outputs are in order and a valid one comes without a fatal error. -/
theorem consistent_of_idle {s : State} (ht : s.task = .idle) (hs : Ordered s) (hv : s.outValid = true → s.fatal = none) :
    Consistent s :=
  ⟨hv, fun hr => absurd ht hr, hs.targets, hs.decoded, hs.sizes, by simp [StageConsistent, ht]⟩

/-- A fatal error, after changes to untracked fields. -/
theorem Sound.raise {s u : State} {c : ECode} {i : Info} {l : Loc} (h : tracked u = tracked s) :
    Sound s (u.raise c i l) where
  host := (HostKept.of_tracked h).trans ⟨rfl, rfl⟩
  consistent hc :=
    have ⟨htargets, hdecoded, hsizes⟩ := (ordered_of_consistent hc).of_tracked h
    consistent_of_idle rfl ⟨htargets, hdecoded, hsizes⟩ nofun

/-- The end of a run, after changes to untracked fields. -/
theorem Sound.complete {s u : State} {T : Task} (ht : s.task = T) (h : tracked u = tracked s)
    (hT : T ≠ .idle := by nofun) : Sound s u.complete where
  host := (HostKept.of_tracked h).trans ⟨rfl, rfl⟩
  consistent hc :=
    have ⟨htargets, hdecoded, hsizes⟩ := (ordered_of_consistent hc).of_tracked h
    consistent_of_idle rfl ⟨htargets, hdecoded, hsizes⟩ fun _ =>
      (congrArg Tracked.fatal h).trans (hc.running (ht ▸ hT)).1

/-- The next stage of a run that may have added to its outputs. -/
theorem Sound.advance {s t : State} {T : Task} (ht : s.task = T) (hh : HostKept s t) (hf : t.fatal = s.fatal)
    (hv : t.outValid = s.outValid)
    (h : Consistent s → StageConsistent { s with task := T } → Ordered t ∧ StageConsistent t)
    (hT : T ≠ .idle := by nofun) : Sound s t where
  host := hh
  consistent hc := by
    obtain ⟨⟨htargets, hdecoded, hsizes⟩, hstage⟩ := h hc (ht ▸ hc.stage)
    obtain ⟨hfatal, hvalid⟩ := hc.running (ht ▸ hT)
    exact ⟨fun _ => hf.trans hfatal, fun _ => ⟨hf.trans hfatal, hv.trans hvalid⟩, htargets, hdecoded, hsizes, hstage⟩

/-- The next stage of a run, after changes to untracked fields: only what holds at that stage is left to show, from what
held of `s` at its stage `T`. -/
theorem Sound.goOn {s t : State} {T : Task} (ht : s.task = T) (h : tracked t = tracked s)
    (hs : Consistent s → StageConsistent { s with task := T } → StageConsistent t) (hT : T ≠ .idle := by nofun) :
    Sound s t :=
  .advance ht (.of_tracked h) (congrArg Tracked.fatal h) (congrArg Tracked.outValid h)
    (fun hc hstage => ⟨(ordered_of_consistent hc).of_tracked h, hs hc hstage⟩) hT

variable {s : State}

/-! ### The encoder's stages -/

theorem setArch_sound {all : List Stmt} {n : Int} {archv : Option Int} (ht : s.task = .scan all [] archv) :
    Sound s (setArch all n s) := by
  unfold setArch
  split
  · exact .raise rfl
  · rename_i a coerced _
    cases coerced with
    | true => exact .goOn ht rfl fun _ ⟨hout, hpasses⟩ => ⟨hout, hpasses, rfl⟩
    | false => exact .goOn ht rfl fun _ ⟨hout, hpasses⟩ => ⟨hout, hpasses, rfl⟩

theorem scanStep_sound {all todo : List Stmt} {archv : Option Int} (ht : s.task = .scan all todo archv) :
    Sound s (scanStep all todo archv s) := by
  unfold scanStep
  split
  · split
    · exact .raise rfl
    · exact .goOn ht rfl fun _ h => h
  · split
    · exact .raise rfl
    · exact .goOn ht rfl fun _ h => h
  · exact .goOn ht rfl fun _ h => h
  · exact .goOn ht rfl fun _ h => h
  · split
    · exact .raise rfl
    · exact setArch_sound ht

/-- The entry jump is generated, without a warning, for every parameter. -/
theorem genJmp_emits (l : String) (p : Params) (a : Arch) :
    ∃ x, Emits (genJmp (.labelRef l .absolute) p a) [] x := by
  refine ⟨_, genCond_emits (by decide) ?_⟩
  cases a <;> simp [WellFormed.okCjmp, WellFormed.okPair, WellFormed.okIn, WellFormed.pairOk, WellFormed.okTarget,
    Flags.isMemory, Flags.isSpr, Config.gprW]

theorem settle_emits {g : Gen Unit} {x : Emitted} (h : Emits g [] x) (isEntry : Bool) (loc : Option Nat) (next : Task) :
    settle g isEntry loc next s = { s.appendInsn x isEntry loc with task := next } := by
  rw [settle, h]; rfl

theorem placeStep_sound {all : List Stmt} (ht : s.task = .place all) : Sound s (placeStep all s) := by
  unfold placeStep
  dsimp only
  split
  · exact .goOn ht rfl fun _ ⟨hout, hpasses, harch⟩ => ⟨hout, hpasses, harch, noEntry_nil, fun _ => noEntry_nil⟩
  · rename_i l hl
    split
    · exact .raise rfl
    · rename_i a _
      obtain ⟨x, hx⟩ := genJmp_emits l s.cfg.params a
      rw [settle_emits hx]
      refine .goOn ht (by simp [tracked]) fun _ ⟨hout, hpasses, harch⟩ => ?_
      simpa [StageConsistent, EntryFirst, NoEntry, hl] using ⟨hout, hpasses, harch⟩

/-- A whole generation: records that are entry jumps or not as asked are appended, then the next stage or a fatal error. -/
theorem settle_cases (g : Gen Unit) (isEntry : Bool) (loc : Option Nat) (next : Task) (s : State) :
    ∃ ws rs, (∀ r ∈ rs, isEntryRecord r = isEntry) ∧
      (settle g isEntry loc next s =
          { s with warnings := s.warnings ++ ws, records := s.records ++ rs, task := next } ∨
        ∃ c i, settle g isEntry loc next s =
          { s with warnings := s.warnings ++ ws, records := s.records ++ rs }.raise c i (sourceLoc loc)) := by
  obtain ⟨ws, rs, hs, -, hrs⟩ := applyEvents_spec isEntry loc s g.events
  refine ⟨ws, rs, fun r hr => ?_, ?_⟩
  · rw [hrs, List.mem_filterMap] at hr
    obtain ⟨e, -, he⟩ := hr
    cases e with
    | warn c i => simp at he
    | insn x => obtain rfl : x.record isEntry loc = r := by simpa using he
                rfl
  · simp only [settle, hs]
    split
    · exact .inl rfl
    · exact .inr ⟨_, _, rfl⟩

theorem generateStatement_sound {g : Params → Arch → Gen Unit} {todo : List Stmt} (ht : s.task = .generate todo) :
    Sound s (generateStatement g todo s) := by
  unfold generateStatement
  split
  · exact .raise rfl
  · rename_i a _
    obtain ⟨ws, rs, hrs, h | ⟨c, i, h⟩⟩ := settle_cases (g s.cfg.params a) false (currentLoc todo) (.generate todo.tail) s
    · rw [h]
      exact .goOn ht rfl fun _ ⟨hout, hpasses, harch, hentry⟩ =>
        ⟨hout, hpasses, harch, entryFirst_append rfl rfl hrs hentry⟩
    · rw [h]
      exact .raise rfl

theorem fetchStatement_sound {todo : List Stmt} {t : State} (ht : s.task = .generate todo)
    (h : fetchStatement todo s = .done t) : Sound s t := by
  unfold fetchStatement at h
  split at h
  · cases h
    exact .goOn ht rfl fun _ ⟨hout, hpasses, harch, hentry⟩ => ⟨hout, harch, hentry, .inl hpasses⟩
  · split at h
    · cases h
    · cases h
      exact .raise rfl
  · cases h
    exact .goOn ht rfl fun _ ⟨hout, hpasses, harch, hentry⟩ =>
      ⟨hout, hpasses, harch, entryFirst_append rfl rfl (by simp [NoEntry, isEntryRecord]) hentry⟩
  · cases h
    exact .goOn ht rfl fun _ hs => hs
  · cases h
    exact .goOn ht rfl fun _ hs => hs

theorem startPassStep_sound (ht : s.task = .startPass) : Sound s (startPassStep s) := by
  unfold startPassStep
  dsimp only
  split
  · exact .raise rfl
  · refine .goOn ht rfl fun _ ⟨hout, harch, hentry, hpasses⟩ => ?_
    refine ⟨hout, harch, hentry, ?_, Nat.zero_le _, by simp [insnCount], fun j _ hj => absurd hj (Nat.not_lt_zero j)⟩
    obtain hpasses | ⟨hpasses, hno⟩ := hpasses
    · exact .inl (congrArg Nat.succ hpasses)
    · exact .inr ⟨congrArg Nat.succ hpasses, hno⟩

/-- The facts that hold all through an address-assignment pass survive the change of one record's address. -/
theorem assign_record_stage {k : Nat} {r r' : Record} {addr : Nat} (hr : s.records[k]? = some r) (hi : isInsn r' = isInsn r)
    (he : isEntryRecord r' = isEntryRecord r) (ha : recordAddr r' = some s.addr)
    (haddr : addr = s.addr + if isInsn r then 1 else 0) (h : StageConsistent { s with task := .assign k }) :
    StageConsistent { s with records := s.records.set k r', addr := addr, task := .assign (k + 1) } := by
  obtain ⟨hout, harch, hentry, hpasses, -, hcount, haddressed⟩ := h
  obtain ⟨hk, -⟩ := List.getElem?_eq_some_iff.1 hr
  have hmap := map_set_of_eq hr he
  refine ⟨hout, harch, entryFirst_of_map_eq hmap rfl hentry, passCount_of_map_eq hmap rfl hpasses, ?_, ?_, ?_⟩
  · simpa using hk
  · show addr = insnCount ((s.records.set k r').take (k + 1))
    rw [insnCount_take_of_map_eq (map_set_of_eq hr hi), insnCount_take_succ hr, haddr]
    exact congrArg (· + _) hcount
  · exact addressed_set_next haddressed hr hi (ha.trans (congrArg some hcount))

theorem assignStep_sound {k : Nat} (ht : s.task = .assign k) : Sound s (assignStep k s) := by
  unfold assignStep
  split
  · rename_i hnone
    refine .goOn ht rfl fun _ ⟨hout, harch, hentry, hpasses, hk, hcount, haddressed⟩ => ?_
    obtain rfl : k = s.records.length := Nat.le_antisymm hk (List.getElem?_eq_none_iff.1 hnone)
    exact ⟨hout, harch, hentry, hpasses, haddressed, by simpa using hcount⟩
  · rename_i hr
    exact .goOn ht rfl fun _ => assign_record_stage hr rfl rfl rfl rfl
  · rename_i hr
    exact .goOn ht rfl fun _ => assign_record_stage hr rfl rfl rfl rfl

theorem elideStep_sound (ht : s.task = .elide) : Sound s (elideStep s) := by
  have hresolve : Sound s { s with task := .resolve 0 } :=
    .goOn ht rfl fun _ ⟨hout, harch, _, _, haddressed, hcount⟩ =>
      ⟨hout, harch, Nat.zero_le _, haddressed, hcount, by simp [Resolved]⟩
  unfold elideStep
  split
  · exact hresolve
  · rename_i e he
    split
    · exact .raise rfl
    · split
      · exact .raise rfl
      · split
        · refine .goOn ht rfl fun _ ⟨hout, harch, ⟨htail, _⟩, hpasses, _, _⟩ => ?_
          have hno := noEntry_eraseIdx htail he
          obtain hpasses | ⟨-, hpasses⟩ := hpasses
          · exact ⟨hout, harch, ⟨fun r hr => hno r (List.mem_of_mem_tail hr), fun _ => hno⟩, .inr ⟨hpasses, hno⟩⟩
          · exact absurd hpasses (not_noEntry_of_findIdx? he)
        · exact hresolve

theorem isValue_of_resolveField {a : Arch} {rs : List Record} {k slot : Nat} {f g : Field}
    (h : resolveField a rs k slot f = .ok g) : isValue g = true := by
  unfold resolveField at h
  split at h
  · cases h; rfl
  · cases h; rfl
  · split at h
    · cases h
    · cases h; rfl

/-- A record resolved without a fatal error waits for no address, and only its fields change. -/
theorem resolveInsn_none {a : Arch} {rs : List Record} {k : Nat} {r r' : InsnRec} (h : resolveInsn a rs k r = (r', none)) :
    isResolved (.insn r') = true ∧ r'.addr = r.addr := by
  unfold resolveInsn at h
  split at h
  · cases h
  · rename_i h0
    split at h
    · cases h
    · rename_i h1
      split at h
      · cases h
      · rename_i h2
        cases h
        simp [isResolved, isValue_of_resolveField h0, isValue_of_resolveField h1, isValue_of_resolveField h2]

theorem resolveStep_sound {k : Nat} (ht : s.task = .resolve k) : Sound s (resolveStep k s) := by
  unfold resolveStep
  split
  · rename_i hnone
    refine .goOn ht rfl fun _ ⟨hout, harch, hk, haddressed, hcount, hresolved⟩ => ?_
    obtain rfl : k = s.records.length := Nat.le_antisymm hk (List.getElem?_eq_none_iff.1 hnone)
    exact ⟨hout, harch, haddressed, hcount, hresolved⟩
  · rename_i hr
    refine .goOn ht rfl fun _ ⟨hout, harch, _, haddressed, hcount, hresolved⟩ => ?_
    obtain ⟨hk, -⟩ := List.getElem?_eq_some_iff.1 hr
    exact ⟨hout, harch, hk, haddressed, hcount, resolved_next hresolved hr rfl⟩
  · rename_i r hr
    split
    · exact .raise rfl
    · split
      · rename_i r' hr'
        obtain ⟨hres, haddr⟩ := resolveInsn_none hr'
        refine .goOn ht rfl fun _ ⟨hout, harch, _, haddressed, hcount, hresolved⟩ => ?_
        obtain ⟨hk, -⟩ := List.getElem?_eq_some_iff.1 hr
        have hsame : insnCount (s.records.set k (.insn r')) = insnCount s.records :=
          insnCount_of_map_eq (map_set_of_eq hr rfl)
        exact ⟨hout, harch, by simpa using hk, addressed_set_same haddressed hr rfl haddr, hcount.trans hsame.symm,
          resolved_set_next hresolved hres⟩
      · exact .raise rfl

/-- Emission begins after the header of the format, whatever warning the ceiling drew. -/
theorem emitHead_stage {out : List Byte} {ws : List Warning} (ht : s.task = .emitHead)
    (hlen : out.length = s.out.length + headerLength s.cfg.outFmt) :
    Sound s { s with warnings := ws, out := out, task := .emitWord 0 } :=
  .goOn ht rfl fun _ ⟨hout, harch, haddressed, hcount, hresolved⟩ => by
    have hout : s.out = [] := hout
    refine ⟨?_, harch, Nat.zero_le _, haddressed, hcount, hresolved⟩
    simpa [hout, insnCount] using hlen

theorem emitHeadStep_sound (ht : s.task = .emitHead) : Sound s (emitHeadStep s) := by
  unfold emitHeadStep
  split
  · exact .raise rfl
  · dsimp only
    split
    all_goals
      rename_i hfmt
      split
      case' h_1 => split
      all_goals exact emitHead_stage ht (by simp [headerLength, hfmt])

theorem emitInsn_sound {k : Nat} {a : Arch} {r : InsnRec} (ht : s.task = .emitWord k) (hr : s.records[k]? = some (.insn r)) :
    Sound s (emitInsn a r { s with task := .emitWord (k + 1) }) := by
  have hword {ws : List Warning} {w : Word} : Sound s { s with
      warnings := ws, out := s.out ++ Decode.wordBytes s.cfg.outFmt w, task := .emitWord (k + 1) } := by
    refine .goOn ht rfl fun _ ⟨hout, harch, _, haddressed, hcount, hresolved⟩ => ?_
    obtain ⟨hk, -⟩ := List.getElem?_eq_some_iff.1 hr
    have hout : s.out.length = headerLength s.cfg.outFmt + 8 * insnCount (s.records.take k) := hout
    refine ⟨?_, harch, hk, haddressed, hcount, hresolved⟩
    simp only [List.length_append, length_wordBytes, hout, insnCount_take_succ hr, isInsn, if_true]
    omega
  unfold emitInsn
  split
  · dsimp only
    split
    · exact hword
    · exact hword
  · exact .raise rfl

theorem emitWordStep_sound {k : Nat} (ht : s.task = .emitWord k) : Sound s (emitWordStep k s) := by
  unfold emitWordStep
  split
  · exact .complete ht rfl
  · rename_i hr
    refine .goOn ht rfl fun _ ⟨hout, harch, _, haddressed, hcount, hresolved⟩ => ?_
    obtain ⟨hk, -⟩ := List.getElem?_eq_some_iff.1 hr
    refine ⟨?_, harch, hk, haddressed, hcount, hresolved⟩
    simpa [insnCount_take_succ hr, isInsn] using hout
  · rename_i hr
    split
    · exact .raise rfl
    · exact emitInsn_sound ht hr

/-! ### The decoder's stages -/

theorem length_of_streamBody {p : Params} {f : OutFmt} {bs body : List Byte} (h : streamBody p f bs = .ok body) :
    body.length % 8 = 0 := by
  unfold streamBody at h
  extract_lets content problem at h
  clear_value content problem
  split at h
  · cases h
  · split at h
    · cases h
      assumption
    · cases h

theorem ingestStep_sound {bs : List Byte} (ht : s.task = .ingest bs) : Sound s (ingestStep bs s) := by
  unfold ingestStep
  split
  · exact .raise rfl
  · rename_i body hbody
    refine .goOn ht rfl fun _ ⟨harch, hwords, hdecoded, htargets⟩ => ?_
    obtain ⟨a, ha⟩ := Option.isSome_iff_exists.1 harch
    have hwords : s.words = [] := hwords
    have hlen := length_of_streamBody hbody
    refine ⟨⟨a, ha, by simp [hwords]⟩, ?_, hdecoded, htargets⟩
    simp only [hwords, List.length_nil]
    omega

theorem unpackStep_sound {body : List Byte} (ht : s.task = .unpack body) : Sound s (unpackStep body s) := by
  unfold unpackStep
  split
  · exact .raise rfl
  · rename_i a ha
    split
    · rename_i hend
      refine .goOn ht rfl fun _ ⟨hfit, hlen, hdecoded, htargets⟩ => ?_
      have hlen : body.length + 8 * s.words.length = 8 * s.count := hlen
      have hdecoded : s.decoded = [] := hdecoded
      have htargets : s.targets = [] := htargets
      exact ⟨hfit, show s.words.length = s.count by omega, by simp [hdecoded], Nat.zero_le _, by simp [htargets]⟩
    · split
      · exact .raise rfl
      · dsimp only
        split
        · rename_i hw
          refine .goOn ht rfl fun _ ⟨⟨a', ha', hfit⟩, hlen, hdecoded, htargets⟩ => ?_
          obtain rfl : a = a' := Option.some.inj (ha.symm.trans ha')
          have hlen : body.length + 8 * s.words.length = 8 * s.count := hlen
          refine ⟨⟨a, ha, fun w hmem => ?_⟩, ?_, hdecoded, htargets⟩
          · obtain hmem | hmem := List.mem_append.1 hmem
            · exact hfit w hmem
            · rwa [List.mem_singleton.1 hmem]
          · simp only [List.length_drop, List.length_append, List.length_singleton]
            omega
        · exact .raise rfl

/-- A target check stops with a fatal error, or passes and adds at most one marker, inside the stream. -/
theorem recordTarget_cases (t : Option Operand) (k : Nat) (s : State) :
    (∃ c i l, recordTarget t k s = (s.raise c i l, false)) ∨
      ∃ ts, recordTarget t k s = ({ s with targets := ts }, true) ∧
        (s.targets.Pairwise (· < ·) → ts.Pairwise (· < ·)) ∧ ∀ u ∈ ts, u ∈ s.targets ∨ u < s.count := by
  unfold recordTarget
  split
  · exact .inr ⟨s.targets, rfl, id, fun u => .inl⟩
  · rename_i t
    split
    · exact .inl ⟨_, _, _, rfl⟩
    · rename_i ht
      refine .inr ⟨insertTarget t s.targets, rfl, insertTarget_pairwise, fun u hu => ?_⟩
      obtain rfl | hu := mem_insertTarget.1 hu
      · exact .inr (Nat.lt_of_not_le ht)
      · exact .inl hu
  · exact .inl ⟨_, _, _, rfl⟩

theorem range_append_fst {ds : List (Nat × Instr)} (h : ds.map Prod.fst = List.range ds.length) (i : Instr) :
    (ds ++ [(ds.length, i)]).map Prod.fst = List.range (ds ++ [(ds.length, i)]).length := by
  simp [h, List.range_succ]

theorem deliver_sound {i : Instr} {r : Recipe} {k : Nat} (ht : s.task = .classify k) : Sound s (deliver i r k s) := by
  cases ha : s.cfg.arch with
  | none => exact deliver_internal (.inl ha) ▸ .raise rfl
  | some a =>
    cases hw : s.words[k]? with
    | none => exact deliver_internal (.inr hw) ▸ .raise rfl
    | some w =>
      obtain ⟨c, i, l, h⟩ | ⟨ts, h, hts, hrange⟩ := recordTarget_cases r.target k
        { s with warnings := s.warnings ++ logged (.word k) (lrWarnings s.cfg.params (Decode.unpack a w) r.lrSlots) }
      · exact deliver_stops ha hw h ▸ .raise rfl
      · rw [deliver_ok ha hw h]
        refine .advance ht ⟨rfl, rfl⟩ rfl rfl fun hc ⟨hfit, hlen, hk, _, htargets⟩ => ?_
        obtain rfl : k = s.decoded.length := hk
        have hlen : s.words.length = s.count := hlen
        obtain ⟨hlt, -⟩ := List.getElem?_eq_some_iff.1 hw
        refine ⟨⟨hts hc.targets, range_append_fst hc.decoded i, hc.sizes⟩, hfit, hlen, by simp, ?_, fun u hu => ?_⟩
        · exact hlen ▸ hlt
        · exact (hrange u hu).elim (htargets u) id

theorem fetchWord_sound {k : Nat} {t : State} (ht : s.task = .classify k) (h : fetchWord k s = .done t) : Sound s t := by
  unfold fetchWord at h
  split at h
  · cases h
    exact .raise rfl
  · rename_i a ha hw
    cases h
    refine .goOn ht rfl fun _ ⟨_, hlen, hk, hle, htargets⟩ => ⟨by simp [ha], ?_, htargets⟩
    have hlen : s.words.length = s.count := hlen
    have hk : k = s.decoded.length := hk
    have hle : k ≤ s.count := hle
    have := List.getElem?_eq_none_iff.1 hw
    show s.decoded.length = s.count
    omega
  · split at h
    · cases h
    · cases h
      exact .raise rfl

theorem nameLabelsStep_sound (ht : s.task = .nameLabels) : Sound s (nameLabelsStep s) := by
  unfold nameLabelsStep
  split
  · exact .raise rfl
  · exact .goOn ht rfl fun _ ⟨_, hlen, htargets⟩ => ⟨hlen, htargets, Nat.zero_le _, rfl⟩

theorem buildStep_sound {k : Nat} (ht : s.task = .build k) : Sound s (buildStep k s) := by
  unfold buildStep
  split
  · exact .complete ht rfl
  · rename_i addr i hd
    refine .goOn ht rfl fun hc ⟨hlen, htargets, _, hstream⟩ => ?_
    obtain rfl : addr = k := fst_of_decoded hc.decoded hd
    obtain ⟨hlt, -⟩ := List.getElem?_eq_some_iff.1 hd
    have hlen : s.decoded.length = s.count := hlen
    have hstream : streamAddresses s.stmts = List.range addr := hstream
    refine ⟨hlen, htargets, hlen ▸ hlt, ?_⟩
    simp only [streamAddresses_append, streamAddresses_streamAt, hstream, List.range_succ]

/-! ### The serializer's stages -/

theorem expandStep_sound {todo : List InitvalOp} {j : Nat} (ht : s.task = .expand todo j) :
    Sound s (expandStep todo j s) := by
  unfold expandStep
  split
  · exact .goOn ht rfl fun _ hout => ⟨hout, by simp⟩
  · split
    · exact .raise rfl
    · refine .advance ht ⟨rfl, rfl⟩ rfl rfl fun hc hout => ⟨⟨hc.targets, hc.decoded, fun w hw => ?_⟩, hout⟩
      exact (List.mem_append.1 hw).elim (hc.sizes w) size_of_mem_expandOp

theorem checkOffsetStep_sound {k : Nat} (ht : s.task = .checkOffset k) : Sound s (checkOffsetStep k s) := by
  unfold checkOffsetStep
  split
  · rename_i hnone
    refine .goOn ht rfl fun _ ⟨hout, hoff⟩ => ⟨hout, fun w hw => hoff w ?_⟩
    show w ∈ s.writes.take k
    rwa [List.take_of_length_le (List.getElem?_eq_none_iff.1 hnone)]
  · rename_i w hw
    split
    · exact .raise rfl
    · rename_i hlimit
      refine .goOn ht rfl fun _ ⟨hout, hoff⟩ => ⟨hout, fun x hx => ?_⟩
      have hx : x ∈ s.writes.take (k + 1) := hx
      rw [List.take_add_one, hw] at hx
      obtain hx | hx := List.mem_append.1 hx
      · exact hoff x hx
      · rw [show x = w by simpa using hx]
        exact Nat.le_of_not_lt hlimit

theorem ivsHeadStep_sound (ht : s.task = .ivsHead) : Sound s (ivsHeadStep s) := by
  have hhead {out : List Byte} (hlen : out.length = s.out.length + listHeaderLength s.cfg.ivFmt) :
      Sound s { s with out := out, task := .ivsRecord 0 } :=
    .goOn ht rfl fun _ ⟨hout, hoff⟩ => by
      have hout : s.out = [] := hout
      exact ⟨hoff, Nat.zero_le _, by simpa [hout] using hlen⟩
  unfold ivsHeadStep
  split
  · rename_i hfmt
    exact hhead (by simp [listHeaderLength, hfmt])
  · rename_i hfmt
    exact hhead (by simp [listHeaderLength, hfmt])

theorem ivsRecordStep_sound {k : Nat} (ht : s.task = .ivsRecord k) : Sound s (ivsRecordStep k s) := by
  unfold ivsRecordStep
  split
  · rename_i w hw
    have hrecord {bs : List Byte} (hlen : Consistent s → bs.length = recordLength s.cfg.ivFmt w) :
        Sound s { s with out := s.out ++ bs, task := .ivsRecord (k + 1) } := by
      refine .goOn ht rfl fun hc ⟨hoff, _, hout⟩ => ?_
      obtain ⟨hk, -⟩ := List.getElem?_eq_some_iff.1 hw
      have hout : s.out.length =
        listHeaderLength s.cfg.ivFmt + ((s.writes.take k).map (recordLength s.cfg.ivFmt)).sum := hout
      refine ⟨hoff, hk, ?_⟩
      simp [List.take_add_one, hw, hout, hlen hc, Nat.add_assoc]
    dsimp only
    split
    · rename_i hfmt
      exact hrecord fun hc => hfmt ▸ length_legacyRecord (hc.sizes w (List.mem_of_getElem? hw))
    · rename_i hfmt
      exact hrecord fun _ => hfmt ▸ length_rawRecord w
  · split
    · exact .complete ht rfl
    · exact .complete ht rfl

/-! ### The step -/

theorem runFetched_sound {f : Fetched} {t : State} (hdone : ∀ u, f = .done u → Sound s u)
    (hrun : ∀ i, exec i s = .next t → Sound s t) (h : runFetched f s = .next t) : Sound s t := by
  cases f with
  | run i => exact hrun i h
  | done u =>
    cases h
    exact hdone _ rfl

theorem exec_generate_sound {todo : List Stmt} {i : Instr} {t : State} (ht : s.task = .generate todo)
    (h : exec i s = .next t) : Sound s t := by
  rw [exec_generate ht] at h
  cases h
  exact generateStatement_sound ht

theorem exec_classify_sound {k : Nat} {i : Instr} {t : State} (ht : s.task = .classify k) (h : exec i s = .next t) :
    Sound s t := by
  rw [exec_classify ht] at h
  cases h
  split
  · exact deliver_sound ht
  · exact .raise rfl

/-- Every step of a running unit keeps the host's fields and the consistency of the state. -/
theorem step_sound {t : State} (hrun : s.task ≠ .idle) (h : step s = .next t) : Sound s t := by
  revert h
  unfold step
  cases ht : s.task with
  | idle => exact absurd ht hrun
  | scan all todo archv => rintro ⟨⟩; exact scanStep_sound ht
  | place all => rintro ⟨⟩; exact placeStep_sound ht
  | generate todo => exact runFetched_sound (fun _ => fetchStatement_sound ht) (fun _ => exec_generate_sound ht)
  | startPass => rintro ⟨⟩; exact startPassStep_sound ht
  | assign k => rintro ⟨⟩; exact assignStep_sound ht
  | elide => rintro ⟨⟩; exact elideStep_sound ht
  | resolve k => rintro ⟨⟩; exact resolveStep_sound ht
  | emitHead => rintro ⟨⟩; exact emitHeadStep_sound ht
  | emitWord k => rintro ⟨⟩; exact emitWordStep_sound ht
  | ingest bytes => rintro ⟨⟩; exact ingestStep_sound ht
  | unpack body => rintro ⟨⟩; exact unpackStep_sound ht
  | classify k => exact runFetched_sound (fun _ => fetchWord_sound ht) (fun _ => exec_classify_sound ht)
  | nameLabels => rintro ⟨⟩; exact nameLabelsStep_sound ht
  | build k => rintro ⟨⟩; exact buildStep_sound ht
  | expand todo j => rintro ⟨⟩; exact expandStep_sound ht
  | checkOffset k => rintro ⟨⟩; exact checkOffsetStep_sound ht
  | ivsHead => rintro ⟨⟩; exact ivsHeadStep_sound ht
  | ivsRecord k => rintro ⟨⟩; exact ivsRecordStep_sound ht

/-! ### A block at rest -/

theorem step_idle (ht : s.task = .idle) : step s = .next (takeRequest s) := by
  simp only [step, ht]

/-- A requested run starts consistent, whatever the state before it, when its first stage holds what it has to. -/
theorem consistent_newRun {arch : Option Arch} {rest : List Request} {T : Task}
    (hs : StageConsistent { s.newRun with cfg := { s.newRun.cfg with arch := arch }, requests := rest, task := T }) :
    Consistent { s.newRun with cfg := { s.newRun.cfg with arch := arch }, requests := rest, task := T } where
  valid := nofun
  running _ := ⟨rfl, rfl⟩
  targets := .nil
  decoded := rfl
  sizes := nofun
  stage := hs

theorem takeRequest_consistent (ht : s.task = .idle) (hc : Consistent s) : Consistent (takeRequest s) := by
  have ⟨htargets, hdecoded, hsizes⟩ := ordered_of_consistent hc
  unfold takeRequest
  split
  · exact hc
  · exact consistent_of_idle ht ⟨htargets, hdecoded, hsizes⟩ hc.valid
  · exact consistent_of_idle ht ⟨htargets, hdecoded, hsizes⟩ hc.valid
  · exact consistent_of_idle ht ⟨htargets, hdecoded, hsizes⟩ hc.valid
  · exact consistent_newRun ⟨rfl, rfl⟩
  · exact consistent_newRun ⟨rfl, rfl, rfl, rfl⟩
  · exact consistent_newRun rfl

theorem takeRequest_params (s : State) : (takeRequest s).cfg.params = s.cfg.params := by
  unfold takeRequest
  split <;> rfl

/-! ### The obligations -/

/-- Settles O56. At rest a request changes no output or starts a run from empty ones; every other step is one stage of the
running unit, and each stage keeps the consistency. -/
theorem stepKeepsConsistency : Obligations.StepKeepsConsistency := by
  intro s t _ hc h
  by_cases ht : s.task = .idle
  · rw [step_idle ht] at h
    cases h
    exact ⟨takeRequest_consistent ht hc, takeRequest_params s⟩
  · have hsound := step_sound ht h
    exact ⟨hsound.consistent hc, hsound.host.params⟩

/-- Settles O60. The three writes are the request taken at rest; of a running unit, every stage keeps the host's fields. -/
theorem hostWritesTheConfiguration : Obligations.HostWritesTheConfiguration := by
  refine ⟨fun s rest ht => ?_, fun s t ht h => ?_⟩
  · rw [step_idle ht]
    refine ⟨fun f hr => ?_, fun f hr => ?_, fun b hr => ?_⟩ <;> simp [takeRequest, hr]
  · obtain ⟨hrequests, hcfg⟩ := (step_sound ht h).host
    exact ⟨hrequests, hcfg⟩

/-- Settles O1: every field has the value that `State.reset` and `State.newRun` write into it. -/
theorem resetAndRunStartValues : Obligations.ResetAndRunStartValues := by
  refine ⟨?_, fun s => ?_⟩
  · simp [State.reset, Cfg.reset]
  · simp

/-- Settles O55: at rest with every output empty. -/
theorem resetStateIsConsistent : Obligations.ResetStateIsConsistent :=
  consistent_of_idle rfl ⟨.nil, rfl, nofun⟩ nofun

end Sys2Proof.Laws.Steps

/-! The immediate predicates, the classes of operand field values, and the decoder's own spelling (30_encoding.md rules R84,
R95, R96; 47_decoder.md rules R315 to R320, R332). -/

namespace Sys2Proof.Laws.Encoding

open Sys2Proof Sys2Proof.Machine Sys2Proof.Safety Sys2Proof.Claims Sys2Proof.Laws.Operands Sys2Proof.Laws.Generation
  Sys2Proof.Laws.Exec

/-! ### Immediates -/

/-- Sign extension of the low `n + 1` bits gives a word back exactly in the range of a signed number of that width. -/
theorem signExtend_setWidth_eq_iff {n : Nat} (hn : n < 32) (v : Imm) :
    (v.setWidth (n + 1)).signExtend 32 = v ↔ -2 ^ n ≤ v.toInt ∧ v.toInt < 2 ^ n := by
  have hcut : ((v.setWidth (n + 1)).signExtend 32).toInt = v.toInt.bmod (2 ^ (n + 1)) := by
    rw [BitVec.toInt_signExtend_of_le (by omega), BitVec.toInt_setWidth, BitVec.toInt_eq_toNat_bmod,
      Int.bmod_bmod_of_dvd (Nat.pow_dvd_pow 2 (by omega))]
  have hpow : ((2 ^ (n + 1) : Nat) : Int) = 2 * 2 ^ n := by push_cast; ring
  rw [← BitVec.toInt_inj, hcut, Int.bmod_eq_iff (by positivity), hpow, sub_self]
  simp only [dvd_zero, and_true]
  omega

theorem isPossibleImmediate_iff (v : Imm) :
    Flags.isPossibleImmediate v = true ↔ -32768 ≤ v.toInt ∧ v.toInt ≤ 32767 := by
  rw [Flags.isPossibleImmediate, beq_iff_eq, signExtend_setWidth_eq_iff (n := 15) (by decide)]
  omega

theorem isValidImmediate_iff (a : Arch) (v : Imm) :
    Flags.isValidImmediate a v = true ↔ (immRange a).1 ≤ v.toInt ∧ v.toInt ≤ (immRange a).2 := by
  rw [Flags.isValidImmediate, Bool.and_eq_true, isPossibleImmediate_iff, beq_iff_eq]
  cases a with
  | rev5 => simp only [Config.immW, signExtend_setWidth_eq_iff (n := 9) (by decide), immRange]; omega
  | rev15 => simp only [Config.immW, signExtend_setWidth_eq_iff (n := 10) (by decide), immRange]; omega

/-- The payload of a native immediate reads back as that immediate. -/
theorem sext_payload {a : Arch} {v : Imm} (h : Flags.isValidImmediate a v = true) :
    Flags.sext (Config.immW a) (v.setWidth (Config.immW a)).toNat = v := by
  simp only [Flags.isValidImmediate, Bool.and_eq_true, beq_iff_eq] at h
  rw [Flags.sext, BitVec.ofNat_toNat, BitVec.setWidth_eq, h.2]

/-- What an immediate field decodes to is a native immediate. -/
theorem isValidImmediate_sext (a : Arch) (f : Nat) :
    Flags.isValidImmediate a (Flags.sext (Config.immW a) f) = true := by
  rw [isValidImmediate_iff, Flags.sext, BitVec.toInt_signExtend_of_le (by cases a <;> decide)]
  have hlo := BitVec.le_toInt (BitVec.ofNat (Config.immW a) f)
  have hhi := BitVec.toInt_lt (x := BitVec.ofNat (Config.immW a) f)
  cases a <;> simp only [Config.immW, immRange] at * <;> omega

/-- Settles O4: sign extension of the low bits gives back exactly the words in a signed range. -/
theorem immediatePredicatesAreTheStatedRanges : Obligations.ImmediatePredicatesAreTheStatedRanges :=
  fun a v => ⟨isValidImmediate_iff a v, sext_payload, isPossibleImmediate_iff v, by
    rw [Flags.isPossibleImmediate, beq_iff_eq]⟩

/-! ### Operand fields -/

/-- A run of `j` ones from bit `k` up reads those bits of a number in place. -/
theorem and_ones (f j k : Nat) : f &&& (2 ^ j - 1) * 2 ^ k = f / 2 ^ k % 2 ^ j * 2 ^ k := by
  apply Nat.eq_of_testBit_eq
  intro i
  simp only [Nat.testBit_and, Nat.testBit_mul_two_pow, Nat.testBit_two_pow_sub_one, Nat.testBit_mod_two_pow,
    Nat.testBit_div_two_pow]
  by_cases h : k ≤ i
  · simp [h, Bool.and_comm]
  · simp [h]

/-- A number with a run of `j` ones put over its bits from `k` up, cut to `k + j` bits. -/
theorem or_ones_mod (t j k : Nat) : (t ||| (2 ^ j - 1) * 2 ^ k) % 2 ^ (k + j) = (2 ^ j - 1) * 2 ^ k + t % 2 ^ k := by
  apply Nat.eq_of_testBit_eq
  intro i
  rw [Nat.mul_comm _ (2 ^ k), Nat.testBit_two_pow_mul_add _ (Nat.mod_lt _ (by positivity))]
  simp only [Nat.testBit_mod_two_pow, Nat.testBit_or, Nat.testBit_two_pow_mul, Nat.testBit_two_pow_sub_one]
  by_cases h : i < k
  · simp [h, Nat.not_le.2 h, Nat.lt_add_right j h]
  · have hj : i < k + j ↔ i - k < j := by omega
    simpa [h, Nat.not_lt.1 h, hj] using Or.inr

/-- The class tests of the default layout on Rev5, by ranges: immediate, GPR, memory-indirect, SPR (30_encoding.md rule
R84). -/
theorem classTests_rev5 {f : Nat} (hf : f < 4096) :
    (f &&& 0xC00 = 0xC00 ↔ 0xC00 ≤ f) ∧ (f &&& 0xFC0 = 0xBC0 ↔ 0xBC0 ≤ f ∧ f < 0xC00) ∧
      (f &&& 0xE00 = 0xA00 ↔ 0xA00 ≤ f ∧ f < 0xC00) ∧ (f &&& 0xE00 = 0x800 ↔ 0x800 ≤ f ∧ f < 0xA00) := by
  rw [show 0xC00 = (2 ^ 2 - 1) * 2 ^ 10 from rfl, show 0xFC0 = (2 ^ 6 - 1) * 2 ^ 6 from rfl,
    show 0xE00 = (2 ^ 3 - 1) * 2 ^ 9 from rfl, and_ones, and_ones, and_ones]
  omega

/-- The class tests of the default layout on Rev15, by ranges, and the reserved bit of a memory-indirect field. -/
theorem classTests_rev15 {f : Nat} (hf : f < 8192) :
    (f &&& 0x1800 = 0x1800 ↔ 0x1800 ≤ f) ∧ (f &&& 0x1F80 = 0x1780 ↔ 0x1780 ≤ f ∧ f < 0x1800) ∧
      (f &&& 0x1C00 = 0x1400 ↔ 0x1400 ≤ f ∧ f < 0x1800) ∧ (f &&& 0x1C00 = 0x1000 ↔ 0x1000 ≤ f ∧ f < 0x1400) ∧
      (f &&& 0x40 = 0 ↔ f / 64 % 2 = 0) := by
  rw [show 0x1800 = (2 ^ 2 - 1) * 2 ^ 11 from rfl, show 0x1F80 = (2 ^ 6 - 1) * 2 ^ 7 from rfl,
    show 0x1C00 = (2 ^ 3 - 1) * 2 ^ 10 from rfl, show 0x40 = (2 ^ 1 - 1) * 2 ^ 6 from rfl, and_ones, and_ones, and_ones,
    and_ones]
  omega

theorem sext_mod (w f : Nat) : Flags.sext w (f % 2 ^ w) = Flags.sext w f := by
  have hcut : BitVec.ofNat w (f % 2 ^ w) = BitVec.ofNat w f := BitVec.eq_of_toNat_eq (by simp)
  rw [Flags.sext, hcut, Flags.sext]

/-- Settles O5: each class test is a range, and within a range the payload is what lies above the tag. -/
theorem fieldClassesPartitionTheValues : Obligations.FieldClassesPartitionTheValues := by
  intro a f hf
  cases a with
  | rev5 =>
    obtain ⟨himm, hgpr, hind, hspr⟩ := classTests_rev5 hf
    have hf : f < 4096 := hf
    simp only [Decode.decOp, Params.default, Params.layout, Layout.rev5, himm, hgpr, hind, hspr, Nat.and_zero, ne_eq,
      not_true_eq_false, if_false, Config.immW, Config.gprW, Config.sprW, Config.indOffW, Config.dirW,
      ← sext_mod 10 f]
    grind
  | rev15 =>
    obtain ⟨himm, hgpr, hind, hspr, hrsvd⟩ := classTests_rev15 hf
    have hf : f < 8192 := hf
    simp only [Decode.decOp, Params.default, Params.layout, Layout.rev15, himm, hgpr, hind, hspr, hrsvd, ne_eq,
      Config.immW, Config.gprW, Config.sprW, Config.indOffW, Config.dirW, ← sext_mod 11 f]
    grind

/-! ### The decoder's own spelling -/

/-- The OFFR number of a field the class tests take for memory-indirect: the GPR test before it leaves no 7. -/
theorem offr_le {a : Arch} {f : Nat} (hf : f < 2 ^ Config.fw a)
    (hgpr : f &&& (Params.default.layout a).gprCls ≠ (Params.default.layout a).gprTag)
    (hind : f &&& (Params.default.layout a).cls3 = (Params.default.layout a).indTag) :
    f / 2 ^ (Params.default.layout a).offrShift % 2 ^ (Params.default.layout a).offrFieldW ≤
      (Params.default.layout a).offrMax := by
  cases a with
  | rev5 =>
    obtain ⟨-, hgpr', hind', -⟩ := classTests_rev5 hf
    have hlo := hind'.1 hind
    have hhi := mt hgpr'.2 hgpr
    simp only [Params.default, Params.layout, Layout.rev5]
    omega
  | rev15 =>
    obtain ⟨-, hgpr', hind', -⟩ := classTests_rev15 hf
    have hlo := hind'.1 hind
    have hhi := mt hgpr'.2 hgpr
    simp only [Params.default, Params.layout, Layout.rev15]
    omega

/-- Every operand field decodes to an operand in the decoder's spelling (47_decoder.md rule R318). -/
theorem canonOp_decOp {a : Arch} {f : Nat} (hf : f < 2 ^ Config.fw a) :
    WellFormed.canonOp Params.default a (Decode.decOp Params.default a f) = true := by
  have hmod (w : Nat) : f % 2 ^ w < 2 ^ w := Nat.mod_lt _ (by positivity)
  unfold Decode.decOp
  dsimp only
  split
  · exact isValidImmediate_sext a f
  · rename_i himm
    split
    · simp [WellFormed.canonOp, hmod]
    · rename_i hgpr
      split
      · simp [WellFormed.canonOp, hmod]
      · rename_i hspr
        split
        · rename_i hind
          split
          · rename_i hrsvd
            rw [hind] at hspr
            simp [WellFormed.canonOp, WellFormed.isReservedIndirect, hf, himm, hgpr, hspr, hind, hrsvd]
          · simpa [WellFormed.canonOp, hmod] using offr_le hf hgpr hind
        · simp [WellFormed.canonOp, hmod]

/-- Every link-register field decodes to an operand in the decoder's spelling (43_call_ret_nap.md rule R230). -/
theorem canonLr_decLr {p : Params} {a : Arch} {f : Nat} (hf : f < 2 ^ Config.fw a) :
    WellFormed.canonLr p a (Decode.decLr p f) = true := by
  unfold Decode.decLr
  split
  · rename_i hmem
    simpa [WellFormed.canonLr] using List.idxOf_lt_length_of_mem hmem
  · rename_i hmem
    simp [WellFormed.canonLr, hf, hmem]

theorem canonTarget_address {a : Arch} {t : Nat} (ht : t < 2 ^ Config.fw a) :
    WellFormed.canonTarget a (.address t) = true := by
  simpa [WellFormed.canonTarget] using ht

/-- The fields an unpacked word gives fit their slots (47_decoder.md rule R313). -/
structure FieldsFit (a : Arch) (x : Decode.WordFields) : Prop where
  f0 : x.f0 < 2 ^ Config.fw a
  f1 : x.f1 < 2 ^ Config.fw a
  f2 : x.f2 < 2 ^ Config.fw a

theorem fieldsFit_unpack (a : Arch) (w : Word) : FieldsFit a (Decode.unpack a w) where
  f0 := Nat.mod_lt _ (by positivity)
  f1 := Nat.mod_lt _ (by positivity)
  f2 := Nat.mod_lt _ (by positivity)

section Rows

variable {p : Params} {typed : Bool} {r : Arch} {x : Decode.WordFields} {a b d : Operand}
  (ha : WellFormed.canonOp p r a = true) (hb : WellFormed.canonOp p r b = true) (hd : WellFormed.canonOp p r d = true)
  (hx : FieldsFit r x)
include ha hb hd hx

theorem familyTable_canonical (opc : Opcode) :
    ∀ row ∈ Decode.familyTable p.opcodes opc a b d x.f2, row.2.canonical p typed r = true := by
  have ht := canonTarget_address hx.f2
  have hm : opc.toNat / 16 % 16 ≤ 15 := by omega
  have hs : opc.toNat % 16 ≤ 15 := by omega
  have hc : opc.toNat % 256 ≤ 255 := by omega
  have haux {n max : Nat} (h : n ≤ max) : WellFormed.canonAux max (.number n) = true := by
    simpa [WellFormed.canonAux] using h
  simpa [Decode.familyTable, Instr.canonical, ha, hb, hd, ht] using And.intro ⟨haux hm, haux hs⟩ (haux hc)

theorem exactTable_canonical : ∀ row ∈ Decode.exactTable p a b d x, row.2.canonical p typed r = true := by
  have ht := canonTarget_address hx.f2
  simp [Decode.exactTable, Instr.canonical, ha, hb, hd, ht, canonLr_decLr hx.f0, canonLr_decLr hx.f1,
    canonLr_decLr hx.f2]

/-- The fallback `@p` is in the decoder's spelling where no named instruction has the opcode (47_decoder.md rule R332). -/
theorem decFallback_canonical {opc : Opcode} (hn : Flags.isNamedOpcode p.opcodes opc = false) :
    (Decode.decFallback typed opc a b d x).canonical p typed r = true := by
  have hopc : opc.toNat ≤ 0xFFF := by omega
  cases typed <;>
    simp [Decode.decFallback, Instr.canonical, WellFormed.canonRaw, hn, hopc, ha, hb, hd, hx.f0, hx.f1, hx.f2]

end Rows

theorem decFields_canonical {typed : Bool} {r : Arch} {x : Decode.WordFields} (hx : FieldsFit r x) :
    (Decode.decFields Params.default typed r x).canonical Params.default typed r = true := by
  have ha := canonOp_decOp hx.f0
  have hb := canonOp_decOp hx.f1
  have hd := canonOp_decOp hx.f2
  unfold Decode.decFields
  dsimp only
  split
  · rename_i i hi
    exact familyTable_canonical ha hb hd hx _ _ (decExtended_mem hi)
  · rename_i hext
    split
    · rename_i i hi
      exact exactTable_canonical ha hb hd hx _ (decExact_mem hi)
    · rename_i hexact
      refine decFallback_canonical ha hb hd hx ?_
      simp [Flags.isNamedOpcode, decExtended_none.1 hext, decExact_none.1 hexact]

/-- Settles O12: what each row of the decoder's tables yields is in the decoder's spelling. -/
theorem decodedInstructionIsCanonical : Obligations.DecodedInstructionIsCanonical := by
  intro typed a w i h
  unfold decodeDefault Decode.decode at h
  split at h
  · cases h
    exact decFields_canonical (fieldsFit_unpack a w)
  · cases h

end Sys2Proof.Laws.Encoding

/-! References: the field a resolved reference becomes, and the step that resolves one record (30_encoding.md rule R93,
45_resolution.md rules R272, R273). -/

namespace Sys2Proof.Laws.References

open Sys2Proof Sys2Proof.Machine Sys2Proof.Safety Sys2Proof.Claims Sys2Proof.Laws.Operands Sys2Proof.Laws.Encoding

/-- A label reference in slot 0 or 1 is the immediate tag over the low bits of its address (30_encoding.md rule R93). -/
theorem resolvedField_eq (a : Arch) (slot t : Nat) :
    resolvedField a slot t =
      if slot = 2 then t
      else match a with
        | .rev5 => 0xC00 + t % 0x400
        | .rev15 => 0x1800 + t % 0x800 := by
  unfold resolvedField
  rw [and_mask]
  cases a with
  | rev5 => rw [show (t ||| Config.immTag .rev5) % 2 ^ Config.fw .rev5 = 0xC00 + t % 0x400 from or_ones_mod t 2 10]
  | rev15 => rw [show (t ||| Config.immTag .rev15) % 2 ^ Config.fw .rev15 = 0x1800 + t % 0x800 from or_ones_mod t 2 11]

theorem resolveField_label_ok {a : Arch} {rs : List Record} {k slot t : Nat} {name : String} {dir : RefDir}
    (h : lookup rs k name dir = .ok t) :
    resolveField a rs k slot (.pending (.label name dir)) = .ok (.value (resolvedField a slot t)) := by
  simp only [resolveField, h]

theorem resolveField_label_error {a : Arch} {rs : List Record} {k slot : Nat} {name : String} {dir : RefDir} {e : Err}
    (h : lookup rs k name dir = .error e) :
    resolveField a rs k slot (.pending (.label name dir)) = .error e := by
  simp only [resolveField, h]

/-- Every label record has its address, as address assignment leaves them (45_resolution.md rule R264). -/
def LabelsAddressed (rs : List Record) : Prop := ∀ n ad l, Record.label n ad l ∈ rs → ad.isSome

theorem definitionAddr_ok {rs : List Record} {name : String} {d : Nat × Option Nat} (hl : LabelsAddressed rs)
    (hd : d ∈ definitions rs name) : ∃ t, definitionAddr d = .ok t := by
  simp only [definitions, List.mem_filterMap] at hd
  obtain ⟨⟨r, i⟩, hmem, hd⟩ := hd
  cases r with
  | insn r => simp at hd
  | label n ad l =>
    obtain ⟨-, rfl⟩ : n = name ∧ (i, ad) = d := by simpa using hd
    have hrs : Record.label n ad l ∈ rs := List.fst_mem_of_mem_zipIdx hmem
    obtain ⟨t, rfl⟩ := Option.isSome_iff_exists.1 (hl n ad l hrs)
    exact ⟨t, rfl⟩

/-- Where every label has its address, a failed lookup names the label, with `E9` or `E10` (45_resolution.md rule R272). -/
theorem lookup_error {rs : List Record} {k : Nat} {name : String} {dir : RefDir} {e : Err} (hl : LabelsAddressed rs)
    (h : lookup rs k name dir = .error e) : ∃ c, (c = .E9 ∨ c = .E10) ∧ e = ⟨c, .name name⟩ := by
  have hnone {d : Nat × Option Nat} (hd : d ∈ definitions rs name) : definitionAddr d ≠ .error e := by
    obtain ⟨t, ht⟩ := definitionAddr_ok hl hd
    simp [ht]
  cases dir with
  | absolute =>
    simp only [lookup] at h
    split at h
    · cases h; exact ⟨_, .inl rfl, rfl⟩
    · rename_i d hd
      exact absurd h (hnone (by simp [hd]))
    · cases h; exact ⟨_, .inr rfl, rfl⟩
  | backward =>
    simp only [lookup] at h
    split at h
    · cases h; exact ⟨_, .inl rfl, rfl⟩
    · rename_i d hd
      exact absurd h (hnone (List.mem_of_mem_filter (List.mem_of_getLast? hd)))
  | forward =>
    simp only [lookup] at h
    split at h
    · cases h; exact ⟨_, .inl rfl, rfl⟩
    · rename_i d hd
      exact absurd h (hnone (List.mem_of_mem_filter (List.mem_of_head? hd)))

theorem resolveInsn_ok {a : Arch} {rs : List Record} {k : Nat} {r : InsnRec} {g0 g1 g2 : Field}
    (h0 : resolveField a rs k 0 r.f0 = .ok g0) (h1 : resolveField a rs k 1 r.f1 = .ok g1)
    (h2 : resolveField a rs k 2 r.f2 = .ok g2) :
    resolveInsn a rs k r = ({ r with f0 := g0, f1 := g1, f2 := g2 }, none) := by
  simp only [resolveInsn, h0, h1, h2]

/-- The first slot that fails stops the resolution of its record. -/
theorem resolveInsn_error {a : Arch} {rs : List Record} {k slot : Nat} {r : InsnRec} {e : Err} (hslot : slot < 3)
    (hbefore : ∀ j < slot, ∃ g, resolveField a rs k j (recordSlot r j) = .ok g)
    (h : resolveField a rs k slot (recordSlot r slot) = .error e) : ∃ r', resolveInsn a rs k r = (r', some e) := by
  match slot with
  | 0 =>
    have h0 : resolveField a rs k 0 r.f0 = .error e := h
    simp only [resolveInsn, h0]
    exact ⟨_, rfl⟩
  | 1 =>
    obtain ⟨g0, h0⟩ : ∃ g, resolveField a rs k 0 r.f0 = .ok g := hbefore 0 (by decide)
    have h1 : resolveField a rs k 1 r.f1 = .error e := h
    simp only [resolveInsn, h0, h1]
    exact ⟨_, rfl⟩
  | 2 =>
    obtain ⟨g0, h0⟩ : ∃ g, resolveField a rs k 0 r.f0 = .ok g := hbefore 0 (by decide)
    obtain ⟨g1, h1⟩ : ∃ g, resolveField a rs k 1 r.f1 = .ok g := hbefore 1 (by decide)
    have h2 : resolveField a rs k 2 r.f2 = .error e := h
    simp only [resolveInsn, h0, h1, h2]
    exact ⟨_, rfl⟩

section Step

variable {s : State} {a : Arch} {k : Nat} {r r' : InsnRec}

theorem step_resolve (ht : s.task = .resolve k) : step s = .next (resolveStep k s) := by simp only [step, ht]

theorem resolveStep_insn_ok (ha : s.cfg.arch = some a) (hr : s.records[k]? = some (.insn r))
    (h : resolveInsn a s.records k r = (r', none)) :
    resolveStep k s = { s with records := s.records.set k (.insn r'), task := .resolve (k + 1) } := by
  simp only [resolveStep, hr, ha, h]

theorem resolveStep_insn_error {e : Err} (ha : s.cfg.arch = some a) (hr : s.records[k]? = some (.insn r))
    (h : resolveInsn a s.records k r = (r', some e)) :
    resolveStep k s =
      { s with records := s.records.set k (.insn r') }.raise e.code e.info (sourceLoc r.loc) := by
  simp only [resolveStep, hr, ha, h]

theorem resolveStep_label {n : String} {ad l : Option Nat} (hr : s.records[k]? = some (.label n ad l)) :
    resolveStep k s = { s with task := .resolve (k + 1) } := by
  simp only [resolveStep, hr]

theorem resolveStep_end (hr : s.records[k]? = none) : resolveStep k s = { s with task := .emitHead } := by
  simp only [resolveStep, hr]

end Step

/-- Settles O42: the field a reference becomes, and the four outcomes of the step at record `k`. -/
theorem resolvedReferenceField : Obligations.ResolvedReferenceField := by
  refine ⟨fun a rs k slot t name dir => ⟨rfl, rfl, fun h _ => ?_⟩, fun s a k ht ha => ⟨?_, ?_, ?_, ?_⟩⟩
  · exact (resolveField_label_ok h).trans (congrArg (fun n => Except.ok (Field.value n)) (resolvedField_eq a slot t))
  · intro r g0 g1 g2 hr h0 h1 h2
    rw [step_resolve ht, resolveStep_insn_ok ha hr (resolveInsn_ok h0 h1 h2)]
  · intro r slot name dir hr hl hslot hbefore hpending hfails
    cases hlookup : lookup s.records k name dir with
    | ok t => exact absurd hlookup (hfails t)
    | error e =>
      obtain ⟨c, hc, rfl⟩ := lookup_error hl hlookup
      obtain ⟨r', hr'⟩ := resolveInsn_error (a := a) hslot hbefore (hpending ▸ resolveField_label_error hlookup)
      have hstep := (step_resolve ht).trans (congrArg _ (resolveStep_insn_error ha hr hr'))
      refine ⟨c, _, hc, rfl, hstep, rfl, rfl, rfl, rfl, fun j hj => ?_⟩
      exact List.getElem?_set_ne (Ne.symm hj)
  · intro n ad l hr
    rw [step_resolve ht, resolveStep_label hr]
  · intro hr
    rw [step_resolve ht, resolveStep_end hr]

end Sys2Proof.Laws.References

/-! Which instructions generation accepts, and with which records (30_encoding.md rules R82 to R94, R100, R101, R108). -/

namespace Sys2Proof.Laws.Acceptance

open Sys2Proof Sys2Proof.Machine Sys2Proof.Safety Sys2Proof.Claims Sys2Proof.Statements Sys2Proof.WellFormed
  Sys2Proof.Laws.Operands Sys2Proof.Laws.Generation Sys2Proof.Laws.Exec Sys2Proof.Laws.Encoding

/-! ### The word of a record -/

/-- The number a field holds, or the address it waits for. -/
def Numbered (f : Field) (v : Nat) : Prop := f = .value v ∨ f = .pending (.address v)

/-- An operand that is no label reference. -/
def noLabel : Operand → Bool
  | .labelRef .. => false
  | _ => true

@[simp] theorem noLabel_imm (v : Imm) : noLabel (.imm v) = true := rfl

@[simp] theorem noLabel_reg (k : RegKind) (n : Nat) : noLabel (.reg k n) = true := rfl

@[simp] theorem noLabel_raw (v : Nat) : noLabel (.raw v) = true := rfl

theorem resolvedInstr_eq (i : Instr) : resolvedInstr i = (operandsOf i).all noLabel := rfl

theorem numbered_recordField {p : Params} {a : Arch} {op : Operand} (h : noLabel op = true) :
    Numbered (recordField p a op) (Decode.operandField p a op) := by
  cases op with
  | labelRef n d => simp [noLabel] at h
  | address t => exact .inr rfl
  | _ => exact .inl rfl

theorem recordWord_numbered {a : Arch} {r : InsnRec} {v0 v1 v2 : Nat} (h0 : Numbered r.f0 v0) (h1 : Numbered r.f1 v1)
    (h2 : Numbered r.f2 v2) : recordWord a (.insn r) = some (Decode.pack a ⟨r.opcode, v0, v1, v2⟩) := by
  obtain h0 | h0 := h0 <;> obtain h1 | h1 := h1 <;> obtain h2 | h2 := h2 <;> simp [recordWord, h0, h1, h2]

/-- The word of what an event appends, `none` for a warning. -/
def eventWord (a : Arch) : Event → Option (Option Word)
  | .warn .. => none
  | .insn x => some (recordWord a (x.record false none))

@[simp] theorem filterMap_eventWord_warnEvents (a : Arch) (ws : List (WCode × Info)) :
    (warnEvents ws).filterMap (eventWord a) = [] := by
  simp [warnEvents, List.filterMap_map, Function.comp_def, eventWord]

/-! ### Generations that are decided by a check -/

/-- A generation that ends with one of the fatal codes of 60_exceptions.md rule R387, whatever it did before. -/
def Fails (g : Gen Unit) : Prop := ∃ e : Err, g.result = .error e ∧ e.code ∈ genCodes

/-- A generation without a fatal error whose records pack to the words of the instructions `is`, where `R` says that no
operand is a label reference. -/
structure Yields (p : Params) (a : Arch) (R : Prop) (g : Gen Unit) (is : List Instr) : Prop where
  ok : g.result = .ok ()
  words : R → g.events.filterMap (eventWord a) = is.map fun j => some (Decode.pack a (Decode.encFields p a j))

/-- A generation that the check `ok` accepts, as the instructions `is`, or refuses. -/
structure Decided (p : Params) (a : Arch) (R : Prop) (g : Gen Unit) (ok : Bool) (is : List Instr) : Prop where
  accepts : ok = true → Yields p a R g is
  refuses : ok = false → Fails g

section Rules

variable {p : Params} {a : Arch} {R : Prop}

theorem fails_of_refuses {g : Gen Unit} (h : Refuses g genCodes) : Fails g := by
  obtain ⟨ws, e, rfl, hc⟩ := h
  exact ⟨e, rfl, hc⟩

theorem Fails.bind {g : Gen Unit} (h : Fails g) (f : Unit → Gen Unit) : Fails (Gen.bind g f) := by
  obtain ⟨e, he, hc⟩ := h
  exact ⟨e, by simp [Gen.bind, he], hc⟩

theorem bind_of_ok {g : Gen Unit} (h : g.result = .ok ()) (f : Unit → Gen Unit) :
    Gen.bind g f = ⟨g.events ++ (f ()).events, (f ()).result⟩ := by
  simp only [Gen.bind, h]

/-- One record whose fields are those of three operands. -/
theorem yields_of_emits {g : Gen Unit} {ws : List (WCode × Info)} {m : String} {opc : Opcode} {x y z : Operand} {b : Bool}
    {j : Instr} (h : Emits g ws ⟨m, opc, recordField p a x, recordField p a y, recordField p a z, b⟩)
    (hres : R → [x, y, z].all noLabel = true)
    (hj : Decode.encFields p a j =
      ⟨opc, Decode.operandField p a x, Decode.operandField p a y, Decode.operandField p a z⟩) :
    Yields p a R g [j] := by
  rw [Emits] at h
  subst h
  refine ⟨rfl, fun hR => ?_⟩
  obtain ⟨hx, hy, hz⟩ : noLabel x = true ∧ noLabel y = true ∧ noLabel z = true := by simpa using hres hR
  have hword : recordWord a (Emitted.record
      ⟨m, opc, recordField p a x, recordField p a y, recordField p a z, b⟩ false none) = _ :=
    recordWord_numbered (numbered_recordField hx) (numbered_recordField hy) (numbered_recordField hz)
  simp [eventWord, hword, hj]

theorem Decided.of_fails {g : Gen Unit} {is : List Instr} (h : Fails g) : Decided p a R g false is := ⟨nofun, fun _ => h⟩

/-- A warning before a generation. -/
theorem Decided.warn {f : Unit → Gen Unit} {ok : Bool} {is : List Instr} (h : Decided p a R (f ()) ok is) (c : WCode)
    (i : Info) : Decided p a R (Gen.bind (.warn c i ()) f) ok is := by
  rw [bind_of_ok (rfl : (Gen.warn c i ()).result = .ok ())]
  refine ⟨fun hok => ⟨(h.accepts hok).ok, fun hR => ?_⟩, fun hok => h.refuses hok⟩
  rw [← (h.accepts hok).words hR]
  rfl

/-- One generation after the other. -/
theorem Decided.seq {g g' : Gen Unit} {ok ok' : Bool} {is js : List Instr} (h : Decided p a R g ok is)
    (h' : Decided p a R g' ok' js) : Decided p a R (Gen.bind g fun _ => g') (ok && ok') (is ++ js) := by
  cases ok with
  | false => exact .of_fails ((h.refuses rfl).bind _)
  | true =>
    obtain ⟨hresult, hwords⟩ := h.accepts rfl
    rw [bind_of_ok hresult, Bool.true_and]
    refine ⟨fun hok => ⟨(h'.accepts hok).ok, fun hR => ?_⟩, fun hok => h'.refuses hok⟩
    simp [hwords hR, (h'.accepts hok).words hR]

/-! ### The classes -/

variable {m : String} {opc : Opcodes → Opcode} {fam : Opcodes → Family} {x y z : Operand} {j : Instr}

theorem genStd3_decided (hres : R → [x, y, z].all noLabel = true)
    (hj : Decode.encFields p a j =
      ⟨opc p.opcodes, Decode.operandField p a x, Decode.operandField p a y, Decode.operandField p a z⟩) :
    Decided p a R (genStd3 m opc x y z p a) (okStd3 p a x y z) [j] :=
  ⟨fun h => yields_of_emits (genStd3_emits h) hres hj, fun h => fails_of_refuses (genStd3_refuses h)⟩

theorem genTkip2_decided (hres : R → [x, z].all noLabel = true)
    (hj : Decode.encFields p a j =
      ⟨opc p.opcodes, Decode.operandField p a x, p.constants.tkip1, Decode.operandField p a z⟩) :
    Decided p a R (genTkip2 m opc x z p a) (okIn p a x && okOut p a z) [j] where
  accepts h := by
    rw [Bool.and_eq_true] at h
    exact yields_of_emits (y := .raw p.constants.tkip1) (genTkip2_emits h.1 h.2)
      (fun hR => by simpa using hres hR) hj
  refuses h := fails_of_refuses (genTkip2_refuses h)

theorem genExt_alu_decided {mo so : Operand} (hres : R → [x, y, z].all noLabel = true)
    (hj : Decode.encFields p a j =
      ⟨Decode.extOpcode (fam p.opcodes) (Decode.auxValue mo) (Decode.auxValue so), Decode.operandField p a x,
        Decode.operandField p a y, Decode.operandField p a z⟩) :
    Decided p a R (genExt m fam false mo so x y z p a) (okAux 15 mo && okAux 15 so && okStd3 p a x y z) [j] where
  accepts h := by
    rw [Bool.and_eq_true, Bool.and_eq_true] at h
    obtain ⟨⟨hm, hs⟩, h⟩ := h
    exact yields_of_emits (genExt_alu_emits hm hs h) hres hj
  refuses h := fails_of_refuses (genExt_refuses (by simpa [okStd3, Bool.and_assoc] using h))

theorem genExt_jump_decided {mo so : Operand} (hres : R → [x, y, z].all noLabel = true)
    (hj : Decode.encFields p a j =
      ⟨Decode.extOpcode (fam p.opcodes) (Decode.auxValue mo) (Decode.auxValue so), Decode.operandField p a x,
        Decode.operandField p a y, Decode.operandField p a z⟩) :
    Decided p a R (genExt m fam true mo so x y z p a) (okAux 15 mo && okAux 15 so && okCjmp p a x y z) [j] where
  accepts h := by
    rw [Bool.and_eq_true, Bool.and_eq_true] at h
    obtain ⟨⟨hm, hs⟩, h⟩ := h
    exact yields_of_emits (genExt_jump_emits hm hs h) hres hj
  refuses h := fails_of_refuses (genExt_refuses (by simpa [okCjmp, Bool.and_assoc] using h))

theorem genCond_decided {c : Operand} (hres : R → [x, y, z].all noLabel = true)
    (hj : Decode.encFields p a j =
      ⟨Decode.condOpcode (fam p.opcodes) (Decode.auxValue c), Decode.operandField p a x, Decode.operandField p a y,
        Decode.operandField p a z⟩) :
    Decided p a R (genCond m fam c x y z p a) (okAux 255 c && okCjmp p a x y z) [j] where
  accepts h := by
    rw [Bool.and_eq_true] at h
    exact yields_of_emits (genCond_emits h.1 h.2) hres hj
  refuses h := fails_of_refuses (genCond_refuses h)

theorem genCjmp_decided (hres : R → [x, y, z].all noLabel = true)
    (hj : Decode.encFields p a j =
      ⟨opc p.opcodes, Decode.operandField p a x, Decode.operandField p a y, Decode.operandField p a z⟩) :
    Decided p a R (genCjmp m opc x y z p a) (okCjmp p a x y z) [j] :=
  ⟨fun h => yields_of_emits (genCjmp_emits h) hres hj, fun h => fails_of_refuses (genCjmp_refuses h)⟩

/-! ### Calls, returns, `nap`, the raw form -/

theorem genCall_decided (lr t : Operand) (hres : R → [lr, t].all noLabel = true) :
    Decided p a R (genCall lr t p a) (okLr p a lr && okTarget a t) [.call lr t] where
  accepts h := by
    rw [Bool.and_eq_true] at h
    have hemit : Emits (genCall lr t p a) [] _ :=
      bind_emits (encLr_accepts h.1) (bind_emits (encTarget_accepts (p := p) h.2) (emits_emit _))
    exact yields_of_emits (y := .raw p.constants.call1) hemit (fun hR => by simpa using hres hR) rfl
  refuses h := by
    refine fails_of_refuses ?_
    cases hlr : okLr p a lr with
    | false => exact ((encLr_refuses hlr).mono (by decide)).bind _
    | true =>
      have ht : okTarget a t = false := by simpa [hlr] using h
      exact (encLr_accepts hlr).bind_refuses (((encTarget_refuses ht).mono (by decide)).bind _)

theorem genCalls_decided (t : Operand) (hres : R → [t].all noLabel = true) :
    Decided p a R (genCalls t p a) (okTarget a t) [.calls t] where
  accepts h := by
    have hemit : Emits (genCalls t p a) [] _ := bind_emits (encTarget_accepts (p := p) h) (emits_emit _)
    exact yields_of_emits (x := .raw p.constants.calls0) (y := .raw p.constants.calls1) hemit
      (fun hR => by simpa using hres hR) rfl
  refuses h := fails_of_refuses (((encTarget_refuses h).mono (by decide)).bind _)

theorem genRet_decided (x y z : Operand) (hres : R → [x, y, z].all noLabel = true) :
    Decided p a R (genRet x y z p a) (okLr p a x && okLr p a y && okLr p a z) [.ret x y z] where
  accepts h := by
    rw [Bool.and_eq_true, Bool.and_eq_true] at h
    obtain ⟨⟨hx, hy⟩, hz⟩ := h
    have hemit : Emits (genRet x y z p a) [] _ :=
      bind_emits (encLr_accepts hx) (bind_emits (encLr_accepts hy) (bind_emits (encLr_accepts hz) (emits_emit _)))
    exact yields_of_emits hemit hres rfl
  refuses h := by
    refine fails_of_refuses ?_
    cases hx : okLr p a x with
    | false => exact ((encLr_refuses hx).mono (by decide)).bind _
    | true =>
      refine (encLr_accepts hx).bind_refuses ?_
      cases hy : okLr p a y with
      | false => exact ((encLr_refuses hy).mono (by decide)).bind _
      | true =>
        have hz : okLr p a z = false := by simpa [hx, hy] using h
        exact (encLr_accepts hy).bind_refuses (((encLr_refuses hz).mono (by decide)).bind _)

theorem genRets_decided : Decided p a R (genRets p a) true [.rets] where
  accepts _ := yields_of_emits (x := .raw p.constants.rets0) (y := .raw p.constants.rets1) (z := .raw p.constants.rets2)
    (emits_emit _) (fun _ => rfl) rfl
  refuses := nofun

theorem genNap_decided : Decided p a R (genNap p a) true [.nap] where
  accepts _ := yields_of_emits (x := .raw p.constants.nap0) (y := .raw p.constants.nap1) (z := .raw p.constants.nap2)
    (emits_emit _) (fun _ => rfl) rfl
  refuses := nofun

/-- The raw form is the three-operand form of its own opcode (43_call_ret_nap.md rule R236). -/
theorem genRaw_eq_genStd3 {h : Nat} (hh : h ≤ 0xFFF) (x y z : Operand) (p : Params) (a : Arch) :
    genRaw h x y z p a = genStd3 (spell (.raw h)) (fun _ => BitVec.ofNat 12 h) x y z p a :=
  if_neg (by omega)

theorem genRaw_decided (h : Nat) (hres : R → [x, y, z].all noLabel = true) :
    Decided p a R (genRaw h x y z p a) (decide (h ≤ 0xFFF) && okStd3 p a x y z) [.raw h x y z] := by
  by_cases hh : h ≤ 0xFFF
  · rw [genRaw_eq_genStd3 hh, decide_eq_true hh, Bool.true_and]
    exact genStd3_decided hres rfl
  · rw [decide_eq_false hh, Bool.false_and, genRaw, if_pos (by omega)]
    exact .of_fails (fails_of_refuses (refuses_fail (by decide)))

end Rules

/-! ### A small immediate beside another operand -/

theorem isValidImmediate_of_le (a : Arch) {v : Imm} (h : v.toNat ≤ 255) : Flags.isValidImmediate a v = true := by
  rw [isValidImmediate_iff, BitVec.toInt_eq_toNat_of_lt (by omega)]
  cases a <;> simp only [immRange] <;> omega

theorem okIn_byte (p : Params) (a : Arch) (v : Imm) : okIn p a (.imm (v &&& 0xFF)) = true :=
  isValidImmediate_of_le a (by rw [BitVec.toNat_and]; exact Nat.and_le_right)

theorem okIn_zero (p : Params) (a : Arch) : okIn p a (.imm 0) = true := isValidImmediate_of_le a (by decide)

theorem pairOk_imm_left (v : Imm) (x : Operand) : pairOk (.imm v) x = true := by
  simp [pairOk, Flags.isMemory, Flags.isSpr]

theorem pairOk_imm_right (x : Operand) (v : Imm) : pairOk x (.imm v) = true := by
  simp [pairOk, Flags.isMemory, Flags.isSpr]

/-- Slots 0 and 1 of an emulated form: one operand, and an admitted immediate. -/
theorem okPair_zero (p : Params) (a : Arch) (x : Operand) : okPair p a x (.imm 0) = okIn p a x := by
  rw [okPair, okIn_zero, pairOk_imm_right, Bool.and_true, Bool.and_true]

theorem okOut_of_okIn {p : Params} {a : Arch} {op : Operand} (h : okIn p a op = true) : okOut p a op = true := by
  cases op with
  | address t => simp [okIn] at h
  | _ => exact h

/-! ### `jand` and `jnand` -/

theorem isImm_iff {x : Operand} : Flags.isImm x = true ↔ ∃ v, x = .imm v := by
  cases x <;> simp [Flags.isImm]

/-- The native form: a native immediate, or no immediate at all. -/
theorem wideMask_none {a : Arch} {x y : Operand} (h : Decode.wideMask a x y = none) :
    (Flags.isValidImmOperand a x || Flags.isValidImmOperand a y || (!Flags.isImm x && !Flags.isImm y)) = true := by
  unfold Decode.wideMask at h
  split at h
  · rename_i hvalid
    rw [hvalid, Bool.true_or]
  · split at h
    · cases h
    · cases h
    · rename_i hx hy
      have himm {z : Operand} (hz : ∀ v, z = .imm v → False) : Flags.isImm z = false :=
        Bool.eq_false_iff.2 fun hi => (isImm_iff.1 hi).elim hz
      rw [himm hx, himm hy, Bool.not_false, Bool.and_true, Bool.or_true]

/-- The emulated form: a wide immediate `v` on one side, the other operand, and no native immediate. -/
theorem wideMask_some {a : Arch} {x y z : Operand} {v : Imm} (h : Decode.wideMask a x y = some (v, z)) :
    (Flags.isValidImmOperand a x || Flags.isValidImmOperand a y) = false ∧
      (x = .imm v ∧ y = z ∨ x = z ∧ y = .imm v ∧ Flags.isImm x = false) := by
  unfold Decode.wideMask at h
  split at h
  · cases h
  · rename_i hvalid
    refine ⟨by simpa using hvalid, ?_⟩
    split at h
    · cases h
      exact .inl ⟨rfl, rfl⟩
    · rename_i hx
      cases h
      exact .inr ⟨rfl, rfl, Bool.eq_false_iff.2 fun hi => (isImm_iff.1 hi).elim hx⟩
    · cases h

section Jand

variable {p : Params} {a : Arch} {m m' : String} {opc : Opcodes → Opcode} {fam : Opcodes → Family} {x y z t : Operand}
  {v : Imm}

theorem genJand_native (h : Decode.wideMask a x y = none) :
    genJand m opc m' fam x y t p a = genCjmp m opc x y t p a := if_pos (wideMask_none h)

theorem okJand_native (h : Decode.wideMask a x y = none) : okJand p a x y t = okCjmp p a x y t :=
  if_pos (wideMask_none h)

/-- Two wide immediates are refused (42_jumps.md rule R191). -/
theorem genJand_twoImm {w : Imm} (h : Decode.wideMask a x y = some (v, .imm w)) :
    genJand m opc m' fam x y t p a = .fail .E13 (.operands [x, y]) := by
  obtain ⟨hvalid, ⟨rfl, rfl⟩ | ⟨rfl, rfl, himm⟩⟩ := wideMask_some h
  · simp [genJand, hvalid, Flags.isImm]
  · simp [Flags.isImm] at himm

theorem okJand_twoImm {w : Imm} (h : Decode.wideMask a x y = some (v, .imm w)) : okJand p a x y t = false := by
  obtain ⟨hvalid, ⟨rfl, rfl⟩ | ⟨rfl, rfl, himm⟩⟩ := wideMask_some h
  · simp [okJand, hvalid, Flags.isImm]
  · simp [Flags.isImm] at himm

/-- One wide immediate is the mask of the bit-field jump, on either side. -/
theorem genJand_wide (h : Decode.wideMask a x y = some (v, z)) (hz : Flags.isImm z = false) :
    genJand m opc m' fam x y t p a = genMaskJump m' fam v z t p a := by
  obtain ⟨hvalid, ⟨rfl, rfl⟩ | ⟨rfl, rfl, himm⟩⟩ := wideMask_some h
  · cases y <;> simp_all [genJand, Flags.isImm]
  · cases x <;> simp_all [genJand, Flags.isImm]

theorem okJand_wide (h : Decode.wideMask a x y = some (v, z)) (hz : Flags.isImm z = false) :
    okJand p a x y t = (okMaskImm v && okIn p a z && okTarget a t) := by
  obtain ⟨hvalid, ⟨rfl, rfl⟩ | ⟨rfl, rfl, himm⟩⟩ := wideMask_some h
  · cases y <;> simp_all [okJand, Flags.isImm]
  · cases x <;> simp_all [okJand, Flags.isImm]

/-- The immediate of an emulated form is not native. -/
theorem isValidImmediate_wideMask (h : Decode.wideMask a x y = some (v, z)) : Flags.isValidImmediate a v = false := by
  obtain ⟨hvalid, hside⟩ := wideMask_some h
  obtain ⟨hx, hy⟩ := Bool.or_eq_false_iff.1 hvalid
  obtain ⟨rfl, -⟩ | ⟨-, rfl, -⟩ := hside
  · exact hx
  · exact hy

theorem okAux_maskNumber (v : Imm) : okAux 15 (Decode.maskNumber v) = true := by
  have hcount : Flags.popcount (v.setWidth 16) ≤ 16 := List.countP_le_length.trans_eq List.length_range
  simp only [okAux, Decode.maskNumber, Bool.and_eq_true, decide_eq_true_eq]
  omega

theorem lowestSetBit_lt {k : BitVec 16} (h : k ≠ 0) : Flags.lowestSetBit k < 16 := by
  obtain ⟨i, hi, hbit⟩ : ∃ i < 16, k.getLsbD i = true := by
    by_contra hnone
    push Not at hnone
    exact h (BitVec.eq_of_getLsbD_eq fun i hi => by simpa using hnone i hi)
  obtain ⟨n, hn⟩ := Option.isSome_iff_exists.1
    (List.find?_isSome.2 ⟨i, List.mem_range.2 hi, hbit⟩ : ((List.range 16).find? fun i => k.getLsbD i).isSome = true)
  rw [Flags.lowestSetBit, hn]
  exact List.mem_range.1 (List.mem_of_find?_eq_some hn)

/-- A possible immediate that is not native has a bit set in its low half. -/
theorem setWidth_ne_zero (hp : Flags.isPossibleImmediate v = true) (hv : Flags.isValidImmediate a v = false) :
    v.setWidth 16 ≠ 0 := by
  intro h0
  rw [Flags.isPossibleImmediate, h0, beq_iff_eq] at hp
  have hzero : Flags.isValidImmediate a v = true := isValidImmediate_of_le a (by rw [← hp]; decide)
  rw [hv] at hzero
  contradiction

theorem okAux_maskShift (hp : Flags.isPossibleImmediate v = true) (hv : Flags.isValidImmediate a v = false) :
    okAux 15 (Decode.maskShift v) = true := by
  have hshift := lowestSetBit_lt (setWidth_ne_zero hp hv)
  simp only [okAux, Decode.maskShift, Bool.and_eq_true, decide_eq_true_eq]
  omega

/-- The emulation of one wide immediate (42_jumps.md rule R191). -/
theorem genMaskJump_decided {R : Prop} {j : Instr} (hv : Flags.isValidImmediate a v = false)
    (hres : R → [z, .imm 0, t].all noLabel = true)
    (hj : Decode.encFields p a j =
      ⟨Decode.extOpcode (fam p.opcodes) (Decode.auxValue (Decode.maskNumber v)) (Decode.auxValue (Decode.maskShift v)),
        Decode.operandField p a z, Decode.operandField p a (.imm 0), Decode.operandField p a t⟩) :
    Decided p a R (genMaskJump m fam v z t p a) (okMaskImm v && okIn p a z && okTarget a t) [j] := by
  unfold genMaskJump okMaskImm
  dsimp only
  split
  · rename_i hp
    split
    · rename_i hc
      have hjump := genExt_jump_decided (m := m) (mo := Decode.maskNumber v) (so := Decode.maskShift v) hres hj
      rw [okAux_maskNumber, okAux_maskShift hp hv, okCjmp, okPair_zero] at hjump
      rw [hp, hc]
      exact Decided.warn (f := fun _ => genExt m fam true (Decode.maskNumber v) (Decode.maskShift v) z (.imm 0) t p a)
        hjump _ _
    · rename_i hc
      rw [Bool.eq_false_iff.2 hc, Bool.and_false]
      exact .of_fails (fails_of_refuses (refuses_fail (by decide)))
  · rename_i hp
    rw [Bool.eq_false_iff.2 hp]
    exact .of_fails (fails_of_refuses (refuses_fail (by decide)))

/-- `jand` and `jnand`: the native jump `j`, or the emulation `mk` of a wide immediate (42_jumps.md rule R191). -/
theorem genJand_decided {R : Prop} {j : Instr} {mk : Imm → Operand → Instr}
    (hres : R → [x, y, t].all noLabel = true)
    (hj : Decode.encFields p a j =
      ⟨opc p.opcodes, Decode.operandField p a x, Decode.operandField p a y, Decode.operandField p a t⟩)
    (hmk : ∀ v z, Decode.encFields p a (mk v z) =
      ⟨Decode.extOpcode (fam p.opcodes) (Decode.auxValue (Decode.maskNumber v)) (Decode.auxValue (Decode.maskShift v)),
        Decode.operandField p a z, Decode.operandField p a (.imm 0), Decode.operandField p a t⟩) :
    Decided p a R (genJand m opc m' fam x y t p a) (okJand p a x y t)
      ((Decode.wideMask a x y).elim [j] fun w => [mk w.1 w.2]) := by
  cases hw : Decode.wideMask a x y with
  | none =>
    rw [genJand_native hw, okJand_native hw]
    exact genCjmp_decided hres hj
  | some w =>
    obtain ⟨v, z⟩ := w
    cases hz : Flags.isImm z with
    | true =>
      obtain ⟨u, rfl⟩ := isImm_iff.1 hz
      rw [genJand_twoImm hw, okJand_twoImm hw]
      exact .of_fails (fails_of_refuses (refuses_fail (by decide)))
    | false =>
      rw [genJand_wide hw hz, okJand_wide hw hz]
      refine genMaskJump_decided (isValidImmediate_wideMask hw) (fun hR => ?_) (hmk v z)
      have hlabels := hres hR
      obtain ⟨-, ⟨rfl, rfl⟩ | ⟨rfl, rfl, -⟩⟩ := wideMask_some hw <;> simpa using hlabels

end Jand

/-! ### `mov` and `jmp` -/

section Mov

variable {p : Params} {a : Arch} {R : Prop} {v : Imm} {x dst : Operand}

/-- The `or` with a zero immediate that a move becomes (44_pseudo.md rule R250). -/
theorem genOrZero_decided (hres : R → [x, dst].all noLabel = true) :
    Decided p a R (genStd3 "or" (·.or) x (.imm 0) dst p a) (okIn p a x && okOut p a dst) [.or x (.imm 0) dst] := by
  rw [← okPair_zero]
  exact genStd3_decided (fun hR => by simpa using hres hR) rfl

/-- The `orx` that puts the high byte of a wide immediate over `x`. -/
theorem genOrxHi_decided (hres : R → [x, dst].all noLabel = true) :
    Decided p a R
      (genExt "orx" (·.orx) false (.number Config.movMask) (.number Config.movShift) (Decode.movHi v) x dst p a)
      (okIn p a x && okOut p a dst)
      [.orx (.number Config.movMask) (.number Config.movShift) (Decode.movHi v) x dst] := by
  have hpair : okIn p a x = okPair p a (Decode.movHi v) x := by
    rw [okPair, Decode.movHi, okIn_byte, pairOk_imm_left, Bool.true_and, Bool.and_true]
  rw [hpair]
  exact genExt_alu_decided (fun hR => by simpa [Decode.movHi] using hres hR) rfl

/-- The emulation of a wide move under either value of `MOV_EMUL`. -/
theorem genMov_wide_decided (hv : Flags.isValidImmediate a v = false) (hp : Flags.isPossibleImmediate v = true)
    (hdst : R → noLabel dst = true) :
    Decided p a R (genMov (.imm v) dst p a) (okMov p a (.imm v) dst) (Decode.expand p a (.mov (.imm v) dst)) := by
  have hlo : okIn p a (Decode.movLo v) = true := okIn_byte p a v
  have hres {x : Operand} (hx : noLabel x = true) (hR : R) : [x, dst].all noLabel = true := by simp [hx, hdst hR]
  cases he : p.movEmul with
  | singleOrx =>
    have hsingle := genOrxHi_decided (p := p) (a := a) (v := v) (hres (x := Decode.movLo v) rfl)
    rw [hlo, Bool.true_and] at hsingle
    simp only [genMov, okMov, Decode.expand, hv, hp, he, if_true, Bool.false_eq_true, if_false, Bool.true_and]
    exact hsingle.warn (f := fun _ => _) _ _
  | orLoThenOrxHi =>
    have htwo := (genOrZero_decided (p := p) (a := a) (hres (x := Decode.movLo v) rfl)).seq
      (genOrxHi_decided (v := v) (x := dst) fun hR => hres (hdst hR) hR)
    have hok : (okIn p a (Decode.movLo v) && okOut p a dst && (okIn p a dst && okOut p a dst)) = okIn p a dst := by
      rw [hlo, Bool.true_and]
      cases hd : okIn p a dst with
      | false => rw [Bool.false_and, Bool.and_false]
      | true => rw [okOut_of_okIn hd, Bool.and_true, Bool.and_true]
    rw [hok] at htwo
    simp only [genMov, okMov, Decode.expand, hv, hp, he, if_true, Bool.false_eq_true, if_false, Bool.true_and]
    exact htwo.warn (f := fun _ => _) _ _

theorem genMov_decided (src dst : Operand) (hres : R → [src, dst].all noLabel = true) :
    Decided p a R (genMov src dst p a) (okMov p a src dst) (Decode.expand p a (.mov src dst)) := by
  cases src with
  | imm v =>
    cases hv : Flags.isValidImmediate a v with
    | true => simpa [genMov, okMov, Decode.expand, hv, okIn] using genOrZero_decided (p := p) (a := a) hres
    | false =>
      cases hp : Flags.isPossibleImmediate v with
      | false => simpa [genMov, okMov, hv, hp] using Decided.of_fails (fails_of_refuses (refuses_fail (by decide)))
      | true => exact genMov_wide_decided hv hp fun hR => by simpa using hres hR
  | _ => simpa [genMov, okMov, Decode.expand] using genOrZero_decided hres

end Mov

theorem genJmp_decided {p : Params} {a : Arch} {R : Prop} (t : Operand) (hres : R → [t].all noLabel = true) :
    Decided p a R (genJmp t p a) (okTarget a t) [.jext (.number Config.condAlways) Decode.r0 Decode.r0 t] := by
  have hr0 : okIn p a Decode.r0 = true := by cases a <;> rfl
  have hcond := genCond_decided (p := p) (a := a) (R := R) (m := "jext") (fam := (·.jext))
    (c := .number Config.condAlways) (x := Decode.r0) (y := Decode.r0) (z := t)
    (j := .jext (.number Config.condAlways) Decode.r0 Decode.r0 t) (fun hR => by simpa [Decode.r0] using hres hR) rfl
  rwa [okCjmp, okPair, hr0] at hcond

/-! ### Every instruction -/

theorem expand_jand (p : Params) (a : Arch) (x y t : Operand) :
    Decode.expand p a (.jand x y t) = (Decode.wideMask a x y).elim [.jand x y t] fun w =>
      [.jnzx (Decode.maskNumber w.1) (Decode.maskShift w.1) w.2 (.imm 0) t] := by
  cases hw : Decode.wideMask a x y <;> simp [Decode.expand, hw]

theorem expand_jnand (p : Params) (a : Arch) (x y t : Operand) :
    Decode.expand p a (.jnand x y t) = (Decode.wideMask a x y).elim [.jnand x y t] fun w =>
      [.jzx (Decode.maskNumber w.1) (Decode.maskShift w.1) w.2 (.imm 0) t] := by
  cases hw : Decode.wideMask a x y <;> simp [Decode.expand, hw]

/-- Well-formedness decides the generation of every instruction: a well-formed one is appended as the instructions it expands
to, any other is refused. -/
theorem generatorOf_decided (p : Params) (a : Arch) (i : Instr) :
    Decided p a (resolvedInstr i = true) (generatorOf i p a) (i.wellFormed p a) (Decode.expand p a i) := by
  have hlast {ops pre : List Operand} (h : (pre ++ ops).all noLabel = true) : ops.all noLabel = true := by
    rw [List.all_append, Bool.and_eq_true] at h
    exact h.2
  cases i with
  | mul x y d | add x y d | addDot x y d | addc x y d | addcDot x y d | sub x y d | subDot x y d | subc x y d
  | subcDot x y d | sra x y d | or x y d | and x y d | xor x y d | sr x y d | sl x y d | rl x y d | rr x y d
  | nand x y d => exact genStd3_decided id rfl
  | tkiph x d | tkiphs x d | tkipl x d | tkipls x d => exact genTkip2_decided id rfl
  | srx m s x y d | orx m s x y d => exact genExt_alu_decided (hlast (pre := [m, s])) rfl
  | jzx m s x y t | jnzx m s x y t => exact genExt_jump_decided (hlast (pre := [m, s])) rfl
  | jext c x y t | jnext c x y t => exact genCond_decided (hlast (pre := [c])) rfl
  | jand x y t =>
    rw [expand_jand]
    exact genJand_decided (mk := fun v z => .jnzx (Decode.maskNumber v) (Decode.maskShift v) z (.imm 0) t) id rfl
      fun _ _ => rfl
  | jnand x y t =>
    rw [expand_jnand]
    exact genJand_decided (mk := fun v z => .jzx (Decode.maskNumber v) (Decode.maskShift v) z (.imm 0) t) id rfl
      fun _ _ => rfl
  | js x y t | jns x y t | je x y t | jne x y t | jls x y t | jges x y t | jgs x y t | jles x y t | jdn x y t
  | jdpz x y t | jdp x y t | jdnz x y t | jl x y t | jge x y t | jg x y t | jle x y t =>
    exact genCjmp_decided id rfl
  | call lr t => exact genCall_decided lr t id
  | calls t => exact genCalls_decided t id
  | ret x y z => exact genRet_decided x y z id
  | rets => exact genRets_decided
  | nap => exact genNap_decided
  | raw h x y d => exact genRaw_decided h id
  | mov src dst => exact genMov_decided src dst id
  | jmp t => exact genJmp_decided t id

/-! ### The state after a generation -/

/-- The records and warnings of a generation at statement `st` are appended, then the stage goes on or the run stops. -/
theorem generateStatement_cases {g : Params → Arch → Gen Unit} {s : State} {st : Stmt} {rest : List Stmt} {a : Arch}
    (ha : s.cfg.arch = some a) :
    ∃ ws rs, rs.map (recordWord a) = (g s.cfg.params a).events.filterMap (eventWord a) ∧
      ((g s.cfg.params a).result = .ok () → generateStatement g (st :: rest) s =
        { s with warnings := s.warnings ++ ws, records := s.records ++ rs, task := .generate rest }) ∧
      ∀ e, (g s.cfg.params a).result = .error e → generateStatement g (st :: rest) s =
        { s with warnings := s.warnings ++ ws, records := s.records ++ rs }.raise e.code e.info
          (sourceLoc (stmtLoc st)) := by
  obtain ⟨ws, rs, hs, -, hrs⟩ := applyEvents_spec false (stmtLoc st) s (g s.cfg.params a).events
  refine ⟨ws, rs, ?_, fun hok => ?_, fun e he => ?_⟩
  · rw [hrs, List.map_filterMap]
    congr 1
    funext e
    cases e <;> rfl
  · simp [generateStatement, ha, settle, currentLoc, hs, hok]
  · simp [generateStatement, ha, settle, currentLoc, hs, he]

/-- Settles O29: well-formedness decides generation, and the state follows its result. -/
theorem generationAcceptsExactlyTheWellFormed : Obligations.GenerationAcceptsExactlyTheWellFormed := by
  intro s st rest a i ht ha
  have hdec := generatorOf_decided s.cfg.params a i
  obtain ⟨ws, rs, -, hok, herr⟩ := generateStatement_cases (g := generatorOf i) (st := st) (rest := rest) ha
  refine ⟨fun hwf => ?_, fun hwf => ?_⟩
  · exact ⟨_, (exec_generate ht).trans (congrArg _ (hok (hdec.accepts hwf).ok)), rfl, rfl, rfl⟩
  · obtain ⟨e, he, hcode⟩ := hdec.refuses hwf
    exact ⟨_, _, (exec_generate ht).trans (congrArg _ (herr e he)), rfl, rfl, rfl, rfl, hcode⟩

/-- Settles O31: the records appended pack to the words of the instructions the statement expands to. -/
theorem generatedRecordsPackToTheEncoding : Obligations.GeneratedRecordsPackToTheEncoding := by
  intro s t st rest a i ht ha hwf hres hexec
  obtain ⟨ws, rs, hwords, hok, -⟩ := generateStatement_cases (g := generatorOf i) (st := st) (rest := rest) ha
  have hyield := (generatorOf_decided s.cfg.params a i).accepts hwf
  rw [exec_generate ht, hok hyield.ok] at hexec
  cases hexec
  rw [List.map_append, hwords, hyield.words hres, Decode.encode, List.map_map]
  rfl

/-! ### Restricted pairs -/

/-- A generation that stops with the fatal error `e` after the warnings `ws`. -/
def Stops {α : Type} (g : Gen α) (ws : List (WCode × Info)) (e : Err) : Prop := g = ⟨warnEvents ws, .error e⟩

section Pairs

variable {p : Params} {a : Arch} {x y z : Operand} {ws : List (WCode × Info)} {e : Err}

theorem Stops.bind {α β : Type} {g : Gen α} (h : Stops g ws e) (f : α → Gen β) : Stops (Gen.bind g f) ws e := by
  rw [h]; rfl

theorem stops_after_accepts {α β : Type} {g : Gen α} {v : α} {f : α → Gen β} (hg : Accepts g [] v)
    (h : Stops (f v) ws e) : Stops (Gen.bind g f) ws e := by
  rw [Stops, hg.bind, h]; rfl

theorem encPair_stops (hx : okIn p a x = true) (hy : okIn p a y = true) (h : Stops (checkCooccur x y) [] e) :
    Stops (encPair p a x y) (slotWarnings a [x, y]) e := by
  unfold Stops at *
  rw [encPair, (encIn_accepts hx).bind, (encIn_accepts hy).bind, h]
  simp [slotWarnings]

theorem checkCooccur_memory (hx : Flags.isMemory x = true) (hy : Flags.isMemory y = true) :
    Stops (checkCooccur x y) [] ⟨.E6, .operands [x, y]⟩ := by
  simp [checkCooccur, hx, hy, Stops, Gen.fail]

theorem checkCooccur_spr (hx : Flags.isSpr x = true) (hy : Flags.isSpr y = true) :
    Stops (checkCooccur x y) [] ⟨.E5, .operands [x, y]⟩ := by
  have hmem : Flags.isMemory x = false := by cases x <;> simp_all [Flags.isSpr, Flags.isMemory]
  simp [checkCooccur, hx, hy, hmem, Stops, Gen.fail]

/-- A pair of input slots that stops, stops every form with two input operands, whatever stands in slot 2. -/
theorem pairedForms_stop {m n c : Operand} {h : Nat} (hm : okAux 15 m = true) (hn : okAux 15 n = true)
    (hc : okAux 255 c = true) (hh : h ≤ 0xFFF) (hx : Flags.isImm x = false) (hy : Flags.isImm y = false)
    (hpair : Stops (encPair p a x y) ws e) :
    ∀ mk ∈ pairedForms m n c h, Stops (generatorOf (mk x y z) p a) ws e := by
  have hstd3 (m opc) : Stops (genStd3 m opc x y z p a) ws e := hpair.bind _
  have hcjmp (m opc) : Stops (genCjmp m opc x y z p a) ws e := hpair.bind _
  have hjand (m opc m' fam) : Stops (genJand m opc m' fam x y z p a) ws e := by
    have hnative : genJand m opc m' fam x y z p a = genCjmp m opc x y z p a := if_pos (by simp [hx, hy])
    exact hnative ▸ hcjmp m opc
  have hext (s fam j) : Stops (genExt s fam j m n x y z p a) ws e :=
    stops_after_accepts (encAux_accepts hm).1 (stops_after_accepts (encAux_accepts hn).1 (hpair.bind _))
  have hcond (s fam) : Stops (genCond s fam c x y z p a) ws e :=
    stops_after_accepts (encAux_accepts hc).1 (hpair.bind _)
  have hraw : Stops (genRaw h x y z p a) ws e := genRaw_eq_genStd3 hh x y z p a ▸ hstd3 _ _
  simp [pairedForms, generatorOf, hstd3, hcjmp, hjand, hext, hcond, hraw]

theorem isImm_of_isMemory (h : Flags.isMemory x = true) : Flags.isImm x = false := by
  cases x <;> simp_all [Flags.isMemory, Flags.isImm]

theorem isImm_of_isSpr (h : Flags.isSpr x = true) : Flags.isImm x = false := by
  cases x <;> simp_all [Flags.isSpr, Flags.isImm]

end Pairs

/-- Settles O28: the co-occurrence check stops the pair of input slots, and with it every form that has one. -/
theorem restrictedPairsAreFatal : Obligations.RestrictedPairsAreFatal := by
  intro s st rest a m n c h x y z ht ha hm hn hc hh hx hy
  refine fun mk hmk => ⟨fun hmx hmy => ?_, fun hsx hsy => ?_⟩
  · exact exec_refuses ht ha (pairedForms_stop hm hn hc hh (isImm_of_isMemory hmx) (isImm_of_isMemory hmy)
      (encPair_stops hx hy (checkCooccur_memory hmx hmy)) mk hmk)
  · exact exec_refuses ht ha (pairedForms_stop hm hn hc hh (isImm_of_isSpr hsx) (isImm_of_isSpr hsy)
      (encPair_stops hx hy (checkCooccur_spr hsx hsy)) mk hmk)

end Sys2Proof.Laws.Acceptance

/-! The standard and the TKIP instructions at the encoder (40_alu.md rules R130, R151), the delivery of the forms that record
no target (40_alu.md rules R131, R151; 43_call_ret_nap.md rules R231, R235), and the paths of classification (47_decoder.md
rule R315). -/

namespace Sys2Proof.Laws.Alu

open Sys2Proof Sys2Proof.Machine Sys2Proof.Safety Sys2Proof.Claims Sys2Proof.Statements Sys2Proof.Laws.Generation
  Sys2Proof.Laws.Exec

/-! ### Generation -/

theorem std3Generation_of_generatorOf {mk : Operand → Operand → Operand → Instr} {m : String} {opc : Opcodes → Opcode}
    (hmk : ∀ x y d, generatorOf (mk x y d) = genStd3 m opc x y d) : Std3Generation mk m opc := by
  intro s st rest a x y d ht ha hok
  refine exec_emits ht ha ?_
  rw [hmk]
  exact genStd3_emits hok

theorem tkip2Generation_of_generatorOf {mk : Operand → Operand → Instr} {m : String} {opc : Opcodes → Opcode}
    (hmk : ∀ x d, generatorOf (mk x d) = genTkip2 m opc x d) : Tkip2Generation mk m opc := by
  intro s st rest a x d ht ha hx hd
  refine exec_emits ht ha ?_
  rw [hmk]
  exact genTkip2_emits hx hd

/-- Settles O16: each of the eighteen meanings generates by `genStd3`, with its mnemonic and its opcode. -/
theorem standardInstructionsGenerate : Obligations.StandardInstructionsGenerate := by
  unfold Obligations.StandardInstructionsGenerate
  refine ⟨?mul, ?add, ?addDot, ?addc, ?addcDot, ?sub, ?subDot, ?subc, ?subcDot, ?sra, ?or, ?and, ?xor, ?sr, ?sl, ?rl, ?rr,
    ?nand⟩
  all_goals exact std3Generation_of_generatorOf fun _ _ _ => rfl

/-- Settles O17: each of the four meanings generates by `genTkip2`, with its mnemonic and its opcode. -/
theorem tkipInstructionsGenerate : Obligations.TkipInstructionsGenerate := by
  unfold Obligations.TkipInstructionsGenerate
  refine ⟨?tkiph, ?tkiphs, ?tkipl, ?tkipls⟩
  all_goals exact tkip2Generation_of_generatorOf fun _ _ => rfl

/-! ### Delivery -/

/-- A form whose recipe only names constants runs no check but theirs. -/
theorem checkedDelivery_of_recipeOf {i : Instr} {cs : Params → List (Nat × Nat)}
    (hr : ∀ p, recipeOf i p = some ⟨[], none, cs p⟩) : CheckedDelivery i (spell (mnemonicOf i)) cs := by
  intro s k a w ht ha hw
  rw [exec_classify ht, hr]
  exact congrArg _ (deliver_ok ha hw (by simp [recordTarget_none, lrWarnings, logged]))

/-- Without constants no check is left. -/
theorem plainDelivery_of_recipeOf {i : Instr} (hr : ∀ p, recipeOf i p = some .plain) : PlainDelivery i :=
  checkedDelivery_of_recipeOf (cs := fun _ => []) hr

/-- Settles O34: slot 1 of the TKIP instructions and every slot of `rets` and `nap` stand in the recipe with their
constants. -/
theorem fixedSubFieldsAreCheckedOnDelivery : Obligations.FixedSubFieldsAreCheckedOnDelivery := by
  unfold Obligations.FixedSubFieldsAreCheckedOnDelivery
  refine ⟨fun x d => ⟨?tkiph, ?tkiphs, ?tkipl, ?tkipls⟩, ?rets, ?nap⟩
  all_goals exact checkedDelivery_of_recipeOf fun _ => rfl

/-- Settles O32: the recipe of each of these forms is the plain one. -/
theorem plainFormsAreDelivered : Obligations.PlainFormsAreDelivered := by
  intro h m n x y d
  refine ⟨?mul, ?add, ?addDot, ?addc, ?addcDot, ?sub, ?subDot, ?subc, ?subcDot, ?sra, ?or, ?and, ?xor, ?sr, ?sl, ?rl, ?rr,
    ?nand, ?srx, ?orx, ?raw⟩
  all_goals exact plainDelivery_of_recipeOf fun _ => rfl

/-! ### The paths of classification -/

section Classification

variable {p : Params} {typed : Bool} {r : Arch} {w : Word} {x : Decode.WordFields} {i : Instr}

/-- The instruction of the extended family of an unpacked word, if it has one. -/
def extendedOf (p : Params) (r : Arch) (x : Decode.WordFields) : Option Instr :=
  Decode.decExtended p.opcodes x.opc (Decode.decOp p r x.f0) (Decode.decOp p r x.f1) (Decode.decOp p r x.f2) x.f2

/-- The instruction of the exact opcode of an unpacked word, if it has one. -/
def exactOf (p : Params) (r : Arch) (x : Decode.WordFields) : Option Instr :=
  Decode.decExact p x.opc (Decode.decOp p r x.f0) (Decode.decOp p r x.f1) (Decode.decOp p r x.f2) x

theorem decode_of_fits (hfit : Decode.fitsArch r w = true) :
    Decode.decode p typed r w = .ok (Decode.decFields p typed r (Decode.unpack r w)) :=
  if_pos hfit

theorem decFields_of_extended (hi : extendedOf p r x = some i) : Decode.decFields p typed r x = i := by
  unfold extendedOf at hi
  simp only [Decode.decFields, hi]

theorem decFields_of_exact (hext : extendedOf p r x = none) (hi : exactOf p r x = some i) :
    Decode.decFields p typed r x = i := by
  unfold extendedOf at hext
  unfold exactOf at hi
  simp only [Decode.decFields, hext, hi]

theorem decFields_of_unnamed (hext : extendedOf p r x = none) (hexact : exactOf p r x = none) :
    Decode.decFields p false r x = .raw x.opc.toNat (.raw x.f0) (.raw x.f1) (.raw x.f2) := by
  unfold extendedOf at hext
  unfold exactOf at hexact
  simp only [Decode.decFields, hext, hexact, Decode.decFallback, Bool.false_eq_true, if_false]

theorem decode_extended (hfit : Decode.fitsArch r w = true) (hi : extendedOf p r (Decode.unpack r w) = some i) :
    Decode.decode p typed r w = .ok i := by
  rw [decode_of_fits hfit, decFields_of_extended hi]

theorem decode_exact (hfit : Decode.fitsArch r w = true) (hext : extendedOf p r (Decode.unpack r w) = none)
    (hi : exactOf p r (Decode.unpack r w) = some i) : Decode.decode p typed r w = .ok i := by
  rw [decode_of_fits hfit, decFields_of_exact hext hi]

theorem decode_unnamed (hfit : Decode.fitsArch r w = true) (hext : extendedOf p r (Decode.unpack r w) = none)
    (hexact : exactOf p r (Decode.unpack r w) = none) :
    Decode.decode p false r w = .ok (.raw (Decode.unpack r w).opc.toNat (.raw (Decode.unpack r w).f0)
      (.raw (Decode.unpack r w).f1) (.raw (Decode.unpack r w).f2)) := by
  rw [decode_of_fits hfit, decFields_of_unnamed hext hexact]

end Classification

/-- Settles O10: three of the words are in an extended family, one has no named opcode, and the others have exact ones. -/
theorem workedWordsDecode : Obligations.WorkedWordsDecode := by
  refine ⟨?mul, ?tkiph, ?srx, ?jnzx, ?jext, ?jle, ?call, ?ret, ?nap, ?raw⟩
  case srx | jnzx | jext => exact decode_extended rfl rfl
  case mul | tkiph | jle | call | ret | nap => exact decode_exact rfl rfl rfl
  case raw => exact decode_unnamed rfl rfl rfl

end Sys2Proof.Laws.Alu

/-! The extended instructions at the encoder with their auxiliary operands (41_extended.md rules R170 to R173), and the
delivery of the jumps that have no fixed sub-field (41_extended.md rule R174, 42_jumps.md rule R190). -/

namespace Sys2Proof.Laws.Extended

open Sys2Proof Sys2Proof.Machine Sys2Proof.Safety Sys2Proof.Claims Sys2Proof.WellFormed Sys2Proof.Laws.Generation
  Sys2Proof.Laws.Exec

/-! ### Auxiliary operands -/

/-- Settles O19: a number and an immediate are read against the range; any other kind falls to the last arm. -/
theorem auxiliaryOperandRange : Obligations.AuxiliaryOperandRange := by
  intro max v u op
  refine ⟨?number, ?immediate, fun hnumber himm => ?other⟩
  case number => simp only [encAux]; split <;> rfl
  case immediate => simp only [encAux]; split <;> rfl
  case other =>
    cases op with
    | number v' => exact absurd rfl (hnumber v')
    | imm u' => exact absurd rfl (himm u')
    | _ => rfl

theorem okAux_of_numeral {op : Operand} {n max : Nat} (h : Numeral op n) (hn : n ≤ max) : okAux max op = true := by
  obtain rfl | ⟨v, rfl, hv⟩ := h
  · simp [okAux, hn]
  · simp [okAux, hv, hn]

theorem auxValue_of_numeral {op : Operand} {n : Nat} (h : Numeral op n) : Decode.auxValue op = n := by
  obtain rfl | ⟨v, rfl, hv⟩ := h
  · rfl
  · rw [BitVec.toInt_eq_toNat_cond] at hv
    show v.toNat = n
    split at hv <;> omega

theorem extOpcode_of_numerals {fam : Family} {mo so : Operand} {mv sv : Nat} (hm : Numeral mo mv) (hmv : mv ≤ 15)
    (hs : Numeral so sv) (hsv : sv ≤ 15) :
    Decode.extOpcode fam (Decode.auxValue mo) (Decode.auxValue so) =
      BitVec.ofNat 12 (fam.toNat * 256 + mv * 16 + sv) := by
  rw [auxValue_of_numeral hm, auxValue_of_numeral hs, extOpcode_eq hmv hsv]

theorem condOpcode_of_numeral {fam : Family} {co : Operand} {c : Nat} (hc : Numeral co c) (hcv : c ≤ 255) :
    Decode.condOpcode fam (Decode.auxValue co) = BitVec.ofNat 12 (fam.toNat * 256 + c) := by
  rw [auxValue_of_numeral hc, condOpcode_eq hcv]

/-! ### Generation -/

theorem bitFieldGeneration_of_generatorOf {mk : Operand → Operand → Operand → Operand → Operand → Instr}
    {m : String} {fam : Opcodes → Family}
    (hmk : ∀ mo so x y d, generatorOf (mk mo so x y d) = genExt m fam false mo so x y d) :
    BitFieldGeneration mk m fam := by
  intro s st rest a mo so mv sv x y d ht ha hm hmv hs hsv hok
  refine exec_emits ht ha ?_
  rw [hmk, ← extOpcode_of_numerals hm hmv hs hsv]
  exact genExt_alu_emits (okAux_of_numeral hm hmv) (okAux_of_numeral hs hsv) hok

theorem bitFieldJumpGeneration_of_generatorOf {mk : Operand → Operand → Operand → Operand → Operand → Instr}
    {m : String} {fam : Opcodes → Family}
    (hmk : ∀ mo so x y t, generatorOf (mk mo so x y t) = genExt m fam true mo so x y t) :
    BitFieldJumpGeneration mk m fam := by
  intro s st rest a mo so mv sv x y t ht ha hm hmv hs hsv hok
  refine exec_emits ht ha ?_
  rw [hmk, ← extOpcode_of_numerals hm hmv hs hsv]
  exact genExt_jump_emits (okAux_of_numeral hm hmv) (okAux_of_numeral hs hsv) hok

theorem conditionGeneration_of_generatorOf {mk : Operand → Operand → Operand → Operand → Instr} {m : String}
    {fam : Opcodes → Family} (hmk : ∀ co x y t, generatorOf (mk co x y t) = genCond m fam co x y t) :
    ConditionGeneration mk m fam := by
  intro s st rest a co c x y t ht ha hc hcv hok
  refine exec_emits ht ha ?_
  rw [hmk, ← condOpcode_of_numeral hc hcv]
  exact genCond_emits (okAux_of_numeral hc hcv) hok

/-- Settles O18: the bit-field meanings generate by `genExt`, the external-condition jumps by `genCond`, each with its
mnemonic and its family. -/
theorem extendedInstructionsGenerate : Obligations.ExtendedInstructionsGenerate := by
  unfold Obligations.ExtendedInstructionsGenerate
  refine ⟨?srx, ?orx, ?jzx, ?jnzx, ?jnext, ?jext, ?families⟩
  case srx | orx => exact bitFieldGeneration_of_generatorOf fun _ _ _ _ _ => rfl
  case jzx | jnzx => exact bitFieldJumpGeneration_of_generatorOf fun _ _ _ _ _ => rfl
  case jnext | jext => exact conditionGeneration_of_generatorOf fun _ _ _ _ => rfl
  case families => rfl

/-! ### Delivery -/

/-- Without link-register slots the checks before the target's leave the state as it is. -/
theorem warnings_append_lrWarnings_nil (s : State) (loc : Loc) (x : Decode.WordFields) :
    { s with warnings := s.warnings ++ logged loc (lrWarnings s.cfg.params x []) } = s := by
  simp [lrWarnings, logged]

/-- A form whose recipe only names its target runs no check but the target's. -/
theorem jumpDelivery_of_recipeOf {mk : Operand → Instr} (hr : ∀ t p, recipeOf (mk t) p = some (.jump t)) :
    JumpDelivery mk := by
  intro s k a w t ht ha hw
  rw [exec_classify ht, hr]
  have hchecks := warnings_append_lrWarnings_nil s (.word k) (Decode.unpack a w)
  refine ⟨fun hlt => ?inRange, fun hle => ?outOfRange⟩
  case inRange =>
    exact congrArg _ (deliver_ok (r := .jump (.address t)) ha hw
      ((congrArg _ hchecks).trans (recordTarget_inRange hlt)))
  case outOfRange =>
    exact congrArg _ (deliver_stops (r := .jump (.address t)) ha hw
      ((congrArg _ hchecks).trans (recordTarget_outOfRange hle)))

/-- Settles O33: the recipe of each of these forms is that of a jump to its target. -/
theorem jumpsAreDelivered : Obligations.JumpsAreDelivered := by
  intro c m n x y
  refine ⟨?jzx, ?jnzx, ?jext, ?jnext, ?jand, ?jnand, ?js, ?jns, ?je, ?jne, ?jls, ?jges, ?jgs, ?jles, ?jdn, ?jdpz, ?jdp,
    ?jdnz, ?jl, ?jge, ?jg, ?jle⟩
  all_goals exact jumpDelivery_of_recipeOf fun _ _ => rfl

end Sys2Proof.Laws.Extended

/-! Bit masks of one run of ones, and the conditional jumps at the encoder: their native form, and `jand` and `jnand` with a
wide immediate (30_encoding.md rules R98, R99; 42_jumps.md rules R190, R191). -/

namespace Sys2Proof.Laws.Jumps

open Sys2Proof Sys2Proof.Machine Sys2Proof.Safety Sys2Proof.Claims Sys2Proof.WellFormed Sys2Proof.Laws.Operands
  Sys2Proof.Laws.Generation Sys2Proof.Laws.Exec Sys2Proof.Laws.Encoding Sys2Proof.Laws.Acceptance
  Sys2Proof.Laws.Extended

/-! ### Masks of one run of ones -/

/-- Setting the zeros below the lowest set bit `n` of a number adds them. -/
theorem or_pred_eq_add {m j n : Nat} (hm : m = 2 ^ n * (2 * j + 1)) : m ||| (m - 1) = m + (2 ^ n - 1) := by
  have hpos : 0 < 2 ^ n := Nat.two_pow_pos n
  have hsucc : 2 ^ (n + 1) = 2 ^ n + 2 ^ n := by ring
  have hsplit : m = 2 ^ (n + 1) * j + 2 ^ n := by rw [hm]; ring
  have hself : m = 2 ^ (n + 1) * j ||| 2 ^ n := hsplit.trans (Nat.two_pow_add_eq_or_of_lt (by omega) j)
  have hpred : m - 1 = 2 ^ (n + 1) * j ||| (2 ^ n - 1) := by
    rw [← Nat.two_pow_add_eq_or_of_lt (by omega)]; omega
  have hlow : 2 ^ n ||| (2 ^ n - 1) = 2 ^ n + (2 ^ n - 1) := by
    simpa using (Nat.two_pow_add_eq_or_of_lt (Nat.sub_lt hpos Nat.one_pos) 1).symm
  calc m ||| (m - 1) = (2 ^ (n + 1) * j ||| 2 ^ n) ||| (2 ^ (n + 1) * j ||| (2 ^ n - 1)) := congrArg₂ _ hself hpred
    _ = 2 ^ (n + 1) * j ||| (2 ^ n ||| (2 ^ n - 1)) := Nat.eq_of_testBit_eq fun i => by grind
    _ = 2 ^ (n + 1) * j + (2 ^ n + (2 ^ n - 1)) := by rw [hlow, Nat.two_pow_add_eq_or_of_lt (by omega)]
    _ = m + (2 ^ n - 1) := by omega

theorem toNat_sub_one {x : BitVec 32} (h : x ≠ 0) : (x - 1).toNat = x.toNat - 1 := by bv_omega

theorem isPowerOfTwo_iff (x : BitVec 32) : Flags.isPowerOfTwo x = true ↔ x.toNat.isPowerOfTwo := by
  by_cases h : x = 0
  · subst h
    simpa [Flags.isPowerOfTwo, Nat.isPowerOfTwo] using fun n => (Nat.two_pow_pos n).ne
  · have hnat : x.toNat ≠ 0 := fun h0 => h (BitVec.eq_of_toNat_eq h0)
    have hzero : (x &&& (x - 1)).toNat = 0 ↔ x &&& (x - 1) = 0 := BitVec.toNat_inj (y := 0)
    rw [← Nat.and_sub_one_eq_zero_iff_isPowerOfTwo hnat, ← toNat_sub_one h, ← BitVec.toNat_and, hzero]
    simpa [Flags.isPowerOfTwo] using fun _ => h

/-- Filled up from below and raised by one, a mask with the lowest set bit `n` is the sum of itself and that bit. -/
theorem toNat_filled_add_one {m : BitVec 32} {j n : Nat} (hm : m.toNat = 2 ^ n * (2 * j + 1)) (hlt : m.toNat < 2 ^ 16) :
    ((m ||| ((m - 1) &&& ~~~m)) + 1).toNat = 2 ^ (n + 1) * (j + 1) := by
  have hne : m ≠ 0 := by rintro rfl; simp at hm
  have hfill : m ||| ((m - 1) &&& ~~~m) = m ||| (m - 1) := by
    ext i hi
    cases h : m[i] <;> simp [h]
  have hle : 2 ^ n ≤ m.toNat := by rw [hm]; exact Nat.le_mul_of_pos_right _ (by omega)
  have hsum : m.toNat + 2 ^ n = 2 ^ (n + 1) * (j + 1) := by rw [hm]; ring
  rw [hfill, BitVec.toNat_add, BitVec.toNat_or, toNat_sub_one hne, or_pred_eq_add hm]
  have hpos : 0 < 2 ^ n := Nat.two_pow_pos n
  rw [show (1 : BitVec 32).toNat = 1 from rfl]
  omega

/-- A mask with the lowest set bit `n` is contiguous when filling it up from below reaches a power of two. -/
theorem isContiguousBitmask_iff_of_lowest {m : BitVec 32} {j n : Nat} (hm : m.toNat = 2 ^ n * (2 * j + 1))
    (hlt : m.toNat < 2 ^ 16) : Flags.isContiguousBitmask m = true ↔ (2 ^ (n + 1) * (j + 1)).isPowerOfTwo := by
  have hne : m ≠ 0 := by rintro rfl; simp at hm
  rw [Flags.isContiguousBitmask, beq_false_of_ne hne, Bool.false_or, isPowerOfTwo_iff, toNat_filled_add_one hm hlt]

/-- The masks of 30_encoding.md rule R99 among the numbers of 16 bits are the runs of ones. -/
theorem isContiguousBitmask_iff (k : BitVec 16) :
    Flags.isContiguousBitmask (k.setWidth 32) = true ↔ ∃ w sh : Nat, k.toNat = (2 ^ w - 1) * 2 ^ sh := by
  have hk : (k.setWidth 32).toNat = k.toNat := BitVec.toNat_setWidth_of_le (by decide)
  have hlt : (k.setWidth 32).toNat < 2 ^ 16 := hk ▸ k.isLt
  by_cases h0 : k = 0
  · subst h0
    exact iff_of_true rfl ⟨0, 0, rfl⟩
  have hnat : k.toNat ≠ 0 := fun h => h0 (BitVec.eq_of_toNat_eq h)
  constructor
  · intro hc
    obtain ⟨n, q, ⟨j, rfl⟩, hq⟩ := Nat.exists_eq_two_pow_mul_odd hnat
    obtain ⟨e, he⟩ := (isContiguousBitmask_iff_of_lowest (hk.trans hq) hlt).1 hc
    obtain ⟨w, -, hw⟩ := (Nat.dvd_prime_pow Nat.prime_two).1 (Dvd.intro_left _ he)
    refine ⟨w + 1, n, ?_⟩
    rw [hq, Nat.mul_comm, show 2 * j + 1 = 2 ^ (w + 1) - 1 by omega]
  · rintro ⟨_ | w, sh, hrun⟩
    · simp [hrun] at hnat
    have hpos : 0 < 2 ^ w := Nat.two_pow_pos w
    have hlow : (k.setWidth 32).toNat = 2 ^ sh * (2 * (2 ^ w - 1) + 1) := by
      rw [hk, hrun, Nat.mul_comm, show 2 ^ (w + 1) - 1 = 2 * (2 ^ w - 1) + 1 by omega]
    rw [isContiguousBitmask_iff_of_lowest hlow hlt]
    exact ⟨sh + 1 + w, by rw [Nat.sub_add_cancel hpos, ← Nat.pow_add]⟩

/-! ### The run of ones of a mask immediate -/

theorem testBit_run (w sh i : Nat) : ((2 ^ w - 1) * 2 ^ sh).testBit i = decide (sh ≤ i ∧ i < sh + w) := by
  rw [Nat.testBit_mul_two_pow, Nat.testBit_two_pow_sub_one, ← Bool.decide_and, decide_eq_decide]
  omega

theorem run_lt {w sh : Nat} (h : w + sh ≤ 16) : (2 ^ w - 1) * 2 ^ sh < 2 ^ 16 :=
  calc (2 ^ w - 1) * 2 ^ sh < 2 ^ w * 2 ^ sh :=
        Nat.mul_lt_mul_of_pos_right (Nat.sub_lt (Nat.two_pow_pos w) Nat.one_pos) (Nat.two_pow_pos sh)
    _ = 2 ^ (w + sh) := (Nat.pow_add 2 w sh).symm
    _ ≤ 2 ^ 16 := Nat.pow_le_pow_right Nat.two_pos h

theorem setWidth_maskImm (w sh : Nat) : (maskImm w sh).setWidth 16 = BitVec.ofNat 16 ((2 ^ w - 1) * 2 ^ sh) := by
  ext i hi
  simpa [maskImm, BitVec.getLsbD_signExtend, hi] using fun _ => Nat.lt_trans hi (by decide)

theorem isPossibleImmediate_maskImm (w sh : Nat) : Flags.isPossibleImmediate (maskImm w sh) = true := by
  rw [Flags.isPossibleImmediate, setWidth_maskImm, maskImm, beq_self_eq_true]

theorem isContiguousBitmask_maskImm {w sh : Nat} (h : w + sh ≤ 16) :
    Flags.isContiguousBitmask (((maskImm w sh).setWidth 16).setWidth 32) = true := by
  rw [isContiguousBitmask_iff, setWidth_maskImm, BitVec.toNat_ofNat, Nat.mod_eq_of_lt (run_lt h)]
  exact ⟨w, sh, rfl⟩

theorem getLsbD_run (w sh : Nat) {i : Nat} (hi : i < 16) :
    (BitVec.ofNat 16 ((2 ^ w - 1) * 2 ^ sh)).getLsbD i = decide (sh ≤ i ∧ i < sh + w) := by
  rw [BitVec.getLsbD_ofNat, decide_eq_true hi, Bool.true_and, testBit_run]

/-- The indices of a run of ones below `n`. -/
theorem countP_run (w sh n : Nat) :
    (List.range n).countP (fun i => decide (sh ≤ i ∧ i < sh + w)) = min n (sh + w) - min n sh := by
  induction n with
  | zero => simp
  | succ n ih =>
    rw [List.range_succ, List.countP_append, ih, List.countP_singleton]
    simp only [decide_eq_true_eq]
    split <;> omega

theorem popcount_maskImm {w sh : Nat} (h : w + sh ≤ 16) : Flags.popcount ((maskImm w sh).setWidth 16) = w := by
  rw [setWidth_maskImm, Flags.popcount, List.countP_congr fun i hi => by rw [getLsbD_run w sh (List.mem_range.1 hi)],
    countP_run]
  omega

theorem lowestSetBit_maskImm {w sh : Nat} (hw : 1 ≤ w) (h : w + sh ≤ 16) :
    Flags.lowestSetBit ((maskImm w sh).setWidth 16) = sh := by
  have hfind : (List.range 16).find? (fun i => ((maskImm w sh).setWidth 16).getLsbD i) = some sh := by
    rw [List.find?_range_eq_some, setWidth_maskImm]
    refine ⟨?_, List.mem_range.2 (by omega), fun i hi => ?_⟩
    · rw [getLsbD_run w sh (by omega), decide_eq_true_eq]; omega
    · rw [getLsbD_run w sh (by omega), Bool.not_eq_true', decide_eq_false_iff_not]; omega
  rw [Flags.lowestSetBit, hfind, Option.getD_some]

/-! ### Generation -/

/-- An instruction whose generation is a fatal error. -/
theorem exec_fails {i : Instr} {s : State} {st : Stmt} {rest : List Stmt} {a : Arch} {c : ECode} {info : Info}
    (ht : s.task = .generate (st :: rest)) (ha : s.cfg.arch = some a)
    (h : generatorOf i s.cfg.params a = .fail c info) :
    exec i s = .next (s.raise c info (sourceLoc (stmtLoc st))) := by
  simpa [logged] using exec_refuses (ws := []) ht ha h

theorem cjmpGeneration_of_generatorOf {native : Arch → Operand → Operand → Prop}
    {mk : Operand → Operand → Operand → Instr} {m : String} {opc : Opcodes → Opcode}
    (hmk : ∀ p a x y t, native a x y → generatorOf (mk x y t) p a = genCjmp m opc x y t p a) :
    CjmpGeneration native mk m opc := by
  intro s st rest a x y t ht ha hnative hok
  refine exec_emits ht ha ?_
  rw [hmk _ _ _ _ _ hnative]
  exact genCjmp_emits hok

/-- `NativeMask` is the test by which the generation of `jand` and `jnand` selects the native form. -/
theorem genJand_of_nativeMask (m m' : String) (opc : Opcodes → Opcode) (fam : Opcodes → Family) (p : Params) {a : Arch}
    {x y : Operand} (t : Operand) (h : NativeMask a x y) : genJand m opc m' fam x y t p a = genCjmp m opc x y t p a :=
  if_pos (by simpa [NativeMask, or_assoc] using h)

/-- Settles O20: `jand` and `jnand` generate by `genJand`, which is `genCjmp` for a native mask; the other sixteen meanings
generate by `genCjmp`, each with its mnemonic and its opcode. -/
theorem conditionalJumpsGenerate : Obligations.ConditionalJumpsGenerate := by
  unfold Obligations.ConditionalJumpsGenerate
  refine ⟨?jand, ?jnand, ?js, ?jns, ?je, ?jne, ?jls, ?jges, ?jgs, ?jles, ?jdn, ?jdpz, ?jdp, ?jdnz, ?jl, ?jge, ?jg, ?jle⟩
  case jand | jnand => exact cjmpGeneration_of_generatorOf fun p _ _ _ t h => genJand_of_nativeMask _ _ _ _ p t h
  all_goals exact cjmpGeneration_of_generatorOf fun _ _ _ _ _ _ => rfl

/-- Both mask jumps generate by `genJand`. -/
theorem generatorOf_maskJump {mk : Operand → Operand → Operand → Instr} (h : mk = .jand ∨ mk = .jnand) :
    ∃ m opc m' fam, ∀ x y t, generatorOf (mk x y t) = genJand m opc m' fam x y t := by
  obtain rfl | rfl := h
  · exact ⟨_, _, _, _, fun _ _ _ => rfl⟩
  · exact ⟨_, _, _, _, fun _ _ _ => rfl⟩

/-! ### Wide immediates -/

section Emulation

variable {p : Params} {a : Arch} {v : Imm} {x t : Operand} {m : String} {fam : Opcodes → Family}

theorem isValidImmOperand_imm (hv : Flags.isValidImmediate a v = false) : Flags.isValidImmOperand a (.imm v) = false :=
  hv

theorem isValidImmOperand_of_not_isImm (hx : Flags.isImm x = false) : Flags.isValidImmOperand a x = false := by
  cases x with
  | imm u => cases hx
  | _ => rfl

/-- Beside an operand that is no native immediate, a wide immediate in slot 0 is the mask. -/
theorem wideMask_left (hv : Flags.isValidImmediate a v = false) (hx : Flags.isValidImmOperand a x = false) :
    Decode.wideMask a (.imm v) x = some (v, x) := by
  simp [Decode.wideMask, isValidImmOperand_imm hv, hx]

/-- Beside an operand that is no immediate, a wide immediate in slot 1 is the mask. -/
theorem wideMask_right (hv : Flags.isValidImmediate a v = false) (hx : Flags.isImm x = false) :
    Decode.wideMask a x (.imm v) = some (v, x) := by
  cases x with
  | imm u => cases hx
  | _ => exact if_neg (by simp [isValidImmOperand_imm hv, isValidImmOperand_of_not_isImm hx])

theorem recordField_zero (p : Params) (a : Arch) : recordField p a (.imm 0) = .value (Config.immTag a) := by
  simp [recordField, Decode.operandField]

/-- A wide run of `w` ones from bit `sh` up is generated as the bit-field jump, after `W5`. -/
theorem genMaskJump_emits {w sh : Nat} (hw : 1 ≤ w) (hsum : w + sh ≤ 16)
    (hv : Flags.isValidImmediate a (maskImm w sh) = false) (hx : okIn p a x = true) (ht : okTarget a t = true) :
    Emits (genMaskJump m fam (maskImm w sh) x t p a) ((.W5, .value (maskImm w sh).toInt) :: slotWarnings a [x])
      ⟨m, BitVec.ofNat 12 ((fam p.opcodes).toNat * 256 + (w - 1) * 16 + sh), recordField p a x,
        .value (Config.immTag a), recordField p a t, true⟩ := by
  have hcjmp : okCjmp p a x (.imm 0) t = true := by rw [okCjmp, okPair_zero, hx, ht, Bool.and_self]
  have hjump := genExt_jump_emits (m := m) (fam := fam) (okAux_maskNumber (maskImm w sh))
    (okAux_maskShift (isPossibleImmediate_maskImm w sh) hv) hcjmp
  have hopcode : Decode.extOpcode (fam p.opcodes) (Decode.auxValue (Decode.maskNumber (maskImm w sh)))
      (Decode.auxValue (Decode.maskShift (maskImm w sh))) =
        BitVec.ofNat 12 ((fam p.opcodes).toNat * 256 + (w - 1) * 16 + sh) := by
    rw [Decode.maskNumber, Decode.maskShift, popcount_maskImm hsum, lowestSetBit_maskImm hw hsum]
    exact extOpcode_of_numerals (.inl rfl) (by omega) (.inl rfl) (by omega)
  rw [hopcode, recordField_zero] at hjump
  rw [genMaskJump, if_pos (isPossibleImmediate_maskImm w sh)]
  dsimp only
  rw [if_pos (isContiguousBitmask_maskImm hsum)]
  exact bind_emits (accepts_warn _ _ _) hjump

/-- A wide immediate beyond 16 bits has no emulation. -/
theorem genMaskJump_not_possible (hv : Flags.isPossibleImmediate v = false) :
    genMaskJump m fam v x t p a = .fail .E13 (.value v.toInt) :=
  if_neg (by rw [hv]; exact Bool.false_ne_true)

/-- A wide immediate that is no run of ones has no emulation. -/
theorem genMaskJump_not_run (hv : Flags.isPossibleImmediate v = true)
    (hrun : ∀ w sh : Nat, v.toNat % 65536 ≠ (2 ^ w - 1) * 2 ^ sh) :
    genMaskJump m fam v x t p a = .fail .E8 (.value v.toInt) := by
  have hmask : ¬ Flags.isContiguousBitmask ((v.setWidth 16).setWidth 32) = true := by
    rw [isContiguousBitmask_iff, BitVec.toNat_setWidth]
    exact fun ⟨w, sh, h⟩ => hrun w sh h
  exact (if_pos hv).trans (if_neg hmask)

theorem maskJumpGeneration_of_generatorOf {mk : Operand → Operand → Operand → Instr} {m m' : String}
    {opc : Opcodes → Opcode} {fam : Opcodes → Family}
    (hmk : ∀ x y t, generatorOf (mk x y t) = genJand m opc m' fam x y t) : MaskJumpGeneration mk m' fam := by
  intro s st rest a w sh x t htask ha hw hsum hv hximm hx ht
  have hexec {y z : Operand} (hside : Decode.wideMask a y z = some (maskImm w sh, x)) :=
    exec_emits (i := mk y z t) htask ha
      (by rw [hmk, genJand_wide hside hximm]; exact genMaskJump_emits hw hsum hv hx ht)
  exact ⟨hexec (wideMask_right hv hximm), hexec (wideMask_left hv (isValidImmOperand_of_not_isImm hximm))⟩

end Emulation

/-- Settles O21: the wide immediate is the mask of the bit-field jump on either side. -/
theorem wideMaskJumpsAreEmulated : Obligations.WideMaskJumpsAreEmulated :=
  ⟨maskJumpGeneration_of_generatorOf fun _ _ _ => rfl, maskJumpGeneration_of_generatorOf fun _ _ _ => rfl⟩

/-- Settles O22: two wide immediates are refused before the emulation; it refuses one that is not possible, and one that is
no run of ones, on either side. -/
theorem unencodableMaskJumpsAreFatal : Obligations.UnencodableMaskJumpsAreFatal := by
  intro s st rest a u v x t ht ha hu hv hx mk hmk
  obtain ⟨m, opc, m', fam, hgen⟩ := generatorOf_maskJump hmk
  refine ⟨exec_fails ht ha ?twoImm, fun form hform => ?oneImm⟩
  case twoImm => rw [hgen, genJand_twoImm (wideMask_left hu hv)]
  case oneImm =>
    have hmask : generatorOf form s.cfg.params a = genMaskJump m' fam v x t s.cfg.params a := by
      obtain rfl | rfl := hform
      · rw [hgen, genJand_wide (wideMask_right hv hx) hx]
      · rw [hgen, genJand_wide (wideMask_left hv (isValidImmOperand_of_not_isImm hx)) hx]
    exact ⟨fun hp => exec_fails ht ha (hmask.trans (genMaskJump_not_possible hp)),
      fun hp hrun => exec_fails ht ha (hmask.trans (genMaskJump_not_run hp hrun))⟩

end Sys2Proof.Laws.Jumps

/-! Calls, returns, `nap` and the raw form at the encoder, with the `W4` of a return after a jump (43_call_ret_nap.md rules R230
to R236, 45_resolution.md rule R267), and the delivery of `call`, `calls` and `ret` (rules R230 to R234, 47_decoder.md rule
R320). -/

namespace Sys2Proof.Laws.Calls

open Sys2Proof Sys2Proof.Machine Sys2Proof.Safety Sys2Proof.Statements Sys2Proof.WellFormed
  Sys2Proof.Laws.Operands Sys2Proof.Laws.Generation Sys2Proof.Laws.Exec Sys2Proof.Laws.Acceptance Sys2Proof.Laws.Extended
  Sys2Proof.Laws.Jumps

/-! ### Generation -/

section Generation

variable {p : Params} {a : Arch} {lr t x y z : Operand}

theorem genCall_emits (hlr : okLr p a lr = true) (ht : okTarget a t = true) :
    Emits (genCall lr t p a) []
      ⟨"call", p.opcodes.call, recordField p a lr, .value p.constants.call1, recordField p a t, true⟩ :=
  bind_emits (encLr_accepts hlr) (bind_emits (encTarget_accepts ht) (emits_emit _))

theorem genCalls_emits (ht : okTarget a t = true) :
    Emits (genCalls t p a) []
      ⟨"calls", p.opcodes.calls, .value p.constants.calls0, .value p.constants.calls1, recordField p a t, true⟩ :=
  bind_emits (encTarget_accepts ht) (emits_emit _)

theorem genRet_emits (hx : okLr p a x = true) (hy : okLr p a y = true) (hz : okLr p a z = true) :
    Emits (genRet x y z p a) []
      ⟨"ret", p.opcodes.ret, recordField p a x, recordField p a y, recordField p a z, false⟩ :=
  bind_emits (encLr_accepts hx) (bind_emits (encLr_accepts hy) (bind_emits (encLr_accepts hz) (emits_emit _)))

end Generation

/-- Settles O23: an admitted link register and an admitted target are accepted without a warning, then the record follows. -/
theorem callsGenerate : Obligations.CallsGenerate := by
  intro s st rest a lr t htask ha ht
  exact ⟨fun hlr => exec_emits htask ha (genCall_emits hlr ht), exec_emits htask ha (genCalls_emits ht)⟩

/-- Settles O25: up to 0xFFF the raw form is a three-operand form with its own opcode; above, its generation begins with the
fatal error. -/
theorem rawInstructionGenerates : Obligations.RawInstructionGenerates := by
  intro s st rest a h x y z htask ha
  refine ⟨fun hh hok => exec_emits htask ha ?own, fun hh => exec_fails htask ha ?above⟩
  case own =>
    rw [generatorOf, genRaw_eq_genStd3 hh]
    exact genStd3_emits hok
  case above => exact if_pos hh

/-! ### The warning of a return after a jump -/

/-- An element of a list with a property of all that follow it, by the parts before and after it and by its position. -/
theorem exists_split_iff_exists_position {α : Type} {xs : List α} {x : α} {P : α → Prop} :
    (∃ pre post, xs = pre ++ x :: post ∧ ∀ y ∈ post, P y) ↔
      ∃ k : Nat, xs[k]? = some x ∧ ∀ (j : Nat) (y : α), k < j → xs[j]? = some y → P y := by
  constructor
  · rintro ⟨pre, post, rfl, hpost⟩
    refine ⟨pre.length, by simp, fun j y hj hy => hpost y ?_⟩
    obtain ⟨i, rfl⟩ := Nat.exists_eq_add_of_lt hj
    exact List.mem_of_getElem? (i := i) (by simpa [Nat.add_assoc, List.getElem?_append_right] using hy)
  · rintro ⟨k, hx, hlater⟩
    obtain ⟨hk, rfl⟩ := List.getElem?_eq_some_iff.1 hx
    refine ⟨xs.take k, xs.drop (k + 1), by simp, fun y hy => ?_⟩
    obtain ⟨i, hi⟩ := List.mem_iff_getElem?.1 hy
    exact hlater (k + 1 + i) y (by omega) (by rwa [← List.getElem?_drop])

/-- A record the test of 45_resolution.md rule R267 skips: a label record or the entry jump. -/
def Skipped (rec : Record) : Prop := ∀ q, rec = .insn q → q.isEntryJump = true

theorem lastFromStatement_eq_some_iff_split {rs : List Record} {r : InsnRec} :
    lastFromStatement rs = some r ↔ r.isEntryJump = false ∧ ∃ pre post, rs = pre ++ .insn r :: post ∧
      ∀ rec ∈ post, Skipped rec := by
  rw [lastFromStatement, List.findSome?_eq_some_iff]
  constructor
  · rintro ⟨later, rec, earlier, hsplit, hrec, hlater⟩
    have hrs : rs = earlier.reverse ++ rec :: later.reverse := by
      rw [← List.reverse_reverse rs, hsplit]; simp
    cases rec with
    | label => cases hrec
    | insn q =>
      obtain ⟨hentry, rfl⟩ : q.isEntryJump = false ∧ q = r := by simpa using hrec
      refine ⟨hentry, _, _, hrs, fun rec hmem q hq => ?_⟩
      subst hq
      simpa using hlater _ (List.mem_reverse.1 hmem)
  · rintro ⟨hentry, pre, post, rfl, hpost⟩
    refine ⟨post.reverse, .insn r, pre.reverse, by simp, by simp [hentry], fun rec hrec => ?_⟩
    cases rec with
    | label => rfl
    | insn q => exact if_pos (hpost _ (List.mem_reverse.1 hrec) q rfl)

/-- The instruction record that decides `W4`, by its position (45_resolution.md rule R267). -/
theorem lastFromStatement_eq_some_iff {rs : List Record} {r : InsnRec} :
    lastFromStatement rs = some r ↔ ∃ k : Nat, rs[k]? = some (.insn r) ∧ r.isEntryJump = false ∧
      ∀ (j : Nat) (q : InsnRec), k < j → rs[j]? = some (.insn q) → q.isEntryJump = true := by
  rw [lastFromStatement_eq_some_iff_split, exists_split_iff_exists_position]
  constructor
  · rintro ⟨hentry, k, hr, hlater⟩
    exact ⟨k, hr, hentry, fun j q hj hq => hlater j _ hj hq q rfl⟩
  · rintro ⟨k, hr, hentry, hlater⟩
    exact ⟨hentry, k, hr, fun j rec hj hrec q hq => hlater j q hj (hq ▸ hrec)⟩

theorem isRetClass_ret : Flags.isRetClass "ret" = true := by decide

theorem isRetClass_rets : Flags.isRetClass "rets" = true := by decide

theorem isRetClass_nap : Flags.isRetClass "nap" = false := by decide

theorem warnsReturnAfterJump_of_isRetClass {m : String} (hm : Flags.isRetClass m = true) (rs : List Record) :
    warnsReturnAfterJump rs m = (lastFromStatement rs).any (·.isJump) := by
  rw [warnsReturnAfterJump, hm, Bool.true_and]
  cases lastFromStatement rs <;> rfl

theorem logged_returnWarning_of_isRetClass {m : String} (hm : Flags.isRetClass m = true) (rs : List Record) (loc : Loc) :
    logged loc (returnWarning rs m loc) =
      if (lastFromStatement rs).any (·.isJump) then [⟨.W4, .location loc, loc⟩] else [] := by
  rw [returnWarning, warnsReturnAfterJump_of_isRetClass hm]
  split <;> rfl

theorem returnWarning_of_not_isRetClass {m : String} (hm : Flags.isRetClass m = false) (rs : List Record) (loc : Loc) :
    returnWarning rs m loc = [] :=
  if_neg (by simp [warnsReturnAfterJump, hm])

/-- A return that generates one record draws `W4` when the record that decides it is jump-class. -/
theorem exec_emits_return {i : Instr} {s : State} {st : Stmt} {rest : List Stmt} {a : Arch} {x : Emitted}
    (ht : s.task = .generate (st :: rest)) (ha : s.cfg.arch = some a) (hm : Flags.isRetClass x.mnem = true)
    (h : Emits (generatorOf i s.cfg.params a) [] x) :
    exec i s = .next { s with
      warnings := s.warnings ++ if (lastFromStatement s.records).any (·.isJump) then
        [⟨.W4, .location (sourceLoc (stmtLoc st)), sourceLoc (stmtLoc st)⟩] else []
      records := s.records ++ [x.record false (stmtLoc st)]
      task := .generate rest } := by
  rw [exec_emits ht ha h, generated, List.nil_append, logged_returnWarning_of_isRetClass hm]

/-- Settles O24: the record that decides `W4` stands where 45_resolution.md rule R267 says; the mnemonics `ret` and `rets` are
ret-class, `nap` is not. -/
theorem returnsAndNapGenerate : Obligations.ReturnsAndNapGenerate := by
  intro s st rest a x y z htask ha afterJump w4
  refine ⟨?position, fun hx hy hz => ?ret, ?rets, ?nap⟩
  case position =>
    simp only [afterJump, Option.any_eq_true, lastFromStatement_eq_some_iff]
    constructor
    · rintro ⟨r, ⟨k, hr, hentry, hlast⟩, hjump⟩
      exact ⟨k, r, hr, hentry, hjump, hlast⟩
    · rintro ⟨k, r, hr, hentry, hjump, hlast⟩
      exact ⟨r, ⟨k, hr, hentry, hlast⟩, hjump⟩
  case ret => exact exec_emits_return (i := .ret x y z) htask ha isRetClass_ret (genRet_emits hx hy hz)
  case rets => exact exec_emits_return (i := .rets) htask ha isRetClass_rets (emits_emit _)
  case nap =>
    rw [exec_emits (i := .nap) htask ha (emits_emit _), generated, returnWarning_of_not_isRetClass isRetClass_nap]
    simp [logged, Emitted.record]

/-! ### Delivery -/

section Delivery

variable {i : Instr} {s : State} {k t : Nat} {a : Arch} {w : Word} {slots : List Nat} {cs : List (Nat × Nat)}

theorem exec_delivers {r : Recipe} (ht : s.task = .classify k) (hr : recipeOf i s.cfg.params = some r) :
    exec i s = .next (deliver i r k s) := by
  rw [exec_classify ht, hr]

/-- A form with a target in range is delivered with its link-register warnings, then those of its constants. -/
theorem exec_target_inRange (ht : s.task = .classify k) (ha : s.cfg.arch = some a) (hw : s.words[k]? = some w)
    (hr : recipeOf i s.cfg.params = some ⟨slots, some (.address t), cs⟩) (hlt : t < s.count) :
    exec i s = .next { delivered s k i (lrWarnings s.cfg.params (Decode.unpack a w) slots ++
      constWarnings (spell (mnemonicOf i)) (Decode.unpack a w) cs) with targets := insertTarget t s.targets } := by
  rw [exec_delivers ht hr, deliver_ok ha hw (by exact recordTarget_inRange hlt)]
  simp [delivered, logged]

/-- A form with a target out of range stops the decoder after its link-register warnings. -/
theorem exec_target_outOfRange (ht : s.task = .classify k) (ha : s.cfg.arch = some a) (hw : s.words[k]? = some w)
    (hr : recipeOf i s.cfg.params = some ⟨slots, some (.address t), cs⟩) (hle : s.count ≤ t) :
    exec i s = .next ({ s with
      warnings := s.warnings ++ logged (.word k) (lrWarnings s.cfg.params (Decode.unpack a w) slots) }.raise
        .E18 (.value t) (.word k)) := by
  rw [exec_delivers ht hr, deliver_stops ha hw (by exact recordTarget_outOfRange hle)]

/-- A form that only holds link registers is delivered with the warnings of their slots. -/
theorem exec_linkRegs (ht : s.task = .classify k) (ha : s.cfg.arch = some a) (hw : s.words[k]? = some w)
    (hr : recipeOf i s.cfg.params = some ⟨slots, none, []⟩) :
    exec i s = .next (delivered s k i (lrWarnings s.cfg.params (Decode.unpack a w) slots)) := by
  rw [exec_delivers ht hr, deliver_ok ha hw (recordTarget_none _ _)]
  simp [delivered, constWarnings, logged]

end Delivery

/-- Settles O35: each form's recipe names its link-register slots, its target and its constants, and delivery checks them in
that order. -/
theorem callsAndReturnsAreDelivered : Obligations.CallsAndReturnsAreDelivered := by
  intro s k a w t lr x y z ht ha hw p f lr0
  refine ⟨fun hlt => ⟨?callIn, ?callsIn⟩, fun hle => ⟨?callOut, ?callsOut⟩, ?ret⟩
  case callIn => exact exec_target_inRange (i := .call lr (.address t)) ht ha hw rfl hlt
  case callsIn => exact exec_target_inRange (i := .calls (.address t)) ht ha hw rfl hlt
  case callOut => exact exec_target_outOfRange (i := .call lr (.address t)) ht ha hw rfl hle
  case callsOut =>
    rw [exec_target_outOfRange (i := .calls (.address t)) ht ha hw rfl hle, warnings_append_lrWarnings_nil]
  case ret => exact exec_linkRegs (i := .ret x y z) ht ha hw rfl

end Sys2Proof.Laws.Calls

/-! The pseudo-instructions `mov` and `jmp` at the encoder (44_pseudo.md rules R250 to R252). -/

namespace Sys2Proof.Laws.Pseudo

open Sys2Proof Sys2Proof.Machine Sys2Proof.Safety Sys2Proof.WellFormed Sys2Proof.Laws.Operands Sys2Proof.Laws.Generation
  Sys2Proof.Laws.Exec Sys2Proof.Laws.Acceptance Sys2Proof.Laws.Extended Sys2Proof.Laws.Jumps

/-! ### The bytes of a wide immediate -/

section Bytes

variable {p : Params} {a : Arch}

/-- A small non-negative immediate is its tag with its value below. -/
theorem recordField_imm_of_le {v : Imm} (h : v.toNat ≤ 255) :
    recordField p a (.imm v) = .value (Config.immTag a + v.toNat) := by
  have hor (k n : Nat) (hn : v.toNat < 2 ^ n) : k * 2 ^ n ||| v.toNat % 2 ^ n = k * 2 ^ n + v.toNat := by
    rw [Nat.mod_eq_of_lt hn, ← Nat.shiftLeft_eq, Nat.shiftLeft_add_eq_or_of_lt hn]
  have hfield : recordField p a (.imm v) = .value (Config.immTag a ||| v.toNat % 2 ^ Config.immW a) := by
    rw [← BitVec.toNat_setWidth]; rfl
  rw [hfield]
  cases a with
  | rev5 => exact congrArg _ (hor 3 10 (by omega))
  | rev15 => exact congrArg _ (hor 3 11 (by omega))

theorem toNat_and_byte (v : Imm) : (v &&& 0xFF).toNat = v.toNat % 256 := by
  rw [BitVec.toNat_and]
  exact Nat.and_two_pow_sub_one_eq_mod v.toNat 8

theorem recordField_byte (v : Imm) :
    recordField p a (.imm (v &&& 0xFF)) = .value (Config.immTag a + v.toNat % 256) := by
  rw [recordField_imm_of_le (by rw [toNat_and_byte]; omega), toNat_and_byte]

theorem recordField_movLo (v : Imm) :
    recordField p a (Decode.movLo v) = .value (Config.immTag a + v.toNat % 256) := recordField_byte v

theorem recordField_movHi (v : Imm) :
    recordField p a (Decode.movHi v) = .value (Config.immTag a + v.toNat / 256 % 256) := by
  rw [Decode.movHi, recordField_byte, BitVec.toNat_ushiftRight, Nat.shiftRight_eq_div_pow]

end Bytes

/-! ### The generation of `mov` -/

/-- Generations in sequence may be grouped either way. -/
theorem bind_assoc {α β γ : Type} (g : Gen α) (f : α → Gen β) (k : β → Gen γ) :
    Gen.bind (Gen.bind g f) k = Gen.bind g fun x => Gen.bind (f x) k := by
  obtain ⟨es, r⟩ := g
  cases r with
  | error e => rfl
  | ok x =>
    simp only [ok_bind]
    cases h : (f x).result <;> simp [Gen.bind, h]

section Mov

variable {p : Params} {a : Arch} {v : Imm} {src x dst : Operand}

/-- The `or` with a zero immediate that a move becomes. -/
theorem genOrZero_emits (hx : okIn p a x = true) (hdst : okOut p a dst = true) :
    Emits (genStd3 "or" (·.or) x (.imm 0) dst p a) (slotWarnings a [x, dst])
      ⟨"or", p.opcodes.or, recordField p a x, .value (Config.immTag a), recordField p a dst, false⟩ := by
  rw [← recordField_zero p a]
  exact genStd3_emits (by rw [okStd3, okPair_zero, hx, hdst, Bool.and_self])

/-- The `orx` that puts the high byte of a wide immediate over `x`. -/
theorem genOrxHi_emits (hx : okIn p a x = true) (hdst : okOut p a dst = true) :
    Emits (genExt "orx" (·.orx) false (.number Config.movMask) (.number Config.movShift) (Decode.movHi v) x dst p a)
      (slotWarnings a [x, dst])
      ⟨"orx", BitVec.ofNat 12 (p.opcodes.orx.toNat * 256 + 0x78), .value (Config.immTag a + v.toNat / 256 % 256),
        recordField p a x, recordField p a dst, false⟩ := by
  have hok : okStd3 p a (Decode.movHi v) x dst = true := by
    rw [okStd3, okPair, Decode.movHi, okIn_byte, pairOk_imm_left, hx, hdst]; rfl
  have hopcode : Decode.extOpcode p.opcodes.orx (Decode.auxValue (.number Config.movMask))
      (Decode.auxValue (.number Config.movShift)) = BitVec.ofNat 12 (p.opcodes.orx.toNat * 256 + 0x78) :=
    extOpcode_of_numerals (mv := 7) (sv := 8) (.inl rfl) (by decide) (.inl rfl) (by decide)
  rw [← hopcode, ← recordField_movHi (p := p)]
  exact genExt_alu_emits (by decide) (by decide) hok

/-- A native immediate and an operand that is no immediate are moved by `or`. -/
theorem genMov_or (h : Flags.isValidImmOperand a src = true ∨ Flags.isImm src = false) :
    genMov src dst p a = genStd3 "or" (·.or) src (.imm 0) dst p a := by
  cases src with
  | imm v => exact if_pos (h.resolve_right Bool.noConfusion)
  | _ => rfl

/-- A wide immediate is moved by one `orx` under the default `MOV_EMUL`. -/
theorem genMov_singleOrx (hv : Flags.isValidImmediate a v = false) (hp : Flags.isPossibleImmediate v = true)
    (he : p.movEmul = .singleOrx) :
    genMov (.imm v) dst p a = Gen.bind (.warn .W5 (.value v.toInt) ()) fun _ =>
      genExt "orx" (·.orx) false (.number Config.movMask) (.number Config.movShift) (Decode.movHi v) (Decode.movLo v) dst
        p a := by
  simp only [genMov, hv, hp, he, if_true, Bool.false_eq_true, if_false]
  rfl

/-- A wide immediate is moved by `or`, then `orx`, under the other `MOV_EMUL`. -/
theorem genMov_orLoThenOrxHi (hv : Flags.isValidImmediate a v = false) (hp : Flags.isPossibleImmediate v = true)
    (he : p.movEmul = .orLoThenOrxHi) :
    genMov (.imm v) dst p a = Gen.bind
      (Gen.bind (.warn .W5 (.value v.toInt) ()) fun _ => genStd3 "or" (·.or) (Decode.movLo v) (.imm 0) dst p a)
      fun _ =>
        genExt "orx" (·.orx) false (.number Config.movMask) (.number Config.movShift) (Decode.movHi v) dst dst p a := by
  simp only [genMov, hv, hp, he, if_true, Bool.false_eq_true, if_false]
  exact (bind_assoc _ _ _).symm

theorem isValidImmediate_of_not_possible (hp : Flags.isPossibleImmediate v = false) :
    Flags.isValidImmediate a v = false := by
  rw [Flags.isValidImmediate, hp, Bool.false_and]

/-- An immediate beyond 16 bits cannot be moved. -/
theorem genMov_not_possible (hp : Flags.isPossibleImmediate v = false) :
    genMov (.imm v) dst p a = .fail .E13 (.value v.toInt) := by
  simp [genMov, isValidImmediate_of_not_possible hp, hp]

end Mov

/-! ### An instruction that generates two records -/

section TwoRecords

variable {s : State} {st : Stmt} {rest : List Stmt} {a : Arch} {ws us : List (WCode × Info)} {x y : Emitted}

/-- The events of one record leave the stage as it is, and are otherwise the whole generation of that record. -/
theorem applyEvents_insn (s : State) (st : Stmt) (rest : List Stmt) (ws : List (WCode × Info)) (x : Emitted) :
    applyEvents false (stmtLoc st) s (warnEvents ws ++ [.insn x]) =
      { generated s st rest ws x with task := s.task } := by
  rw [applyEvents_append, applyEvents_warn]
  simp only [applyEvents, List.foldl_cons, List.foldl_nil, applyEvent, State.appendInsn, generated, returnWarning, logged,
    List.map_append, State.warn]
  split <;> simp

/-- One record after the other: the second is generated at the state the first left. -/
theorem exec_emits_twice {i : Instr} {g g' : Gen Unit} (ht : s.task = .generate (st :: rest)) (ha : s.cfg.arch = some a)
    (hi : generatorOf i s.cfg.params a = Gen.bind g fun _ => g') (hg : Emits g ws x) (hg' : Emits g' us y) :
    exec i s = .next (generated (generated s st rest ws x) st rest us y) := by
  rw [exec_generate ht, generateStatement, ha]
  dsimp only
  rw [hi, hg, hg']
  simp only [settle, ok_bind, currentLoc, List.head?_cons, Option.bind_some, List.tail_cons]
  rw [applyEvents_append, applyEvents_insn (rest := rest), applyEvents_insn (rest := rest)]
  rfl

end TwoRecords

/-- Settles O26: the emulation warns, then generates its one or two records by the rules of `or` and `orx`. -/
theorem movGenerates : Obligations.MovGenerates := by
  intro s st rest a src dst v ht ha p byteField hiByte loByte orxOpcode
  have hlo : okIn p a (Decode.movLo v) = true := okIn_byte p a v
  refine ⟨fun hsrc hx hdst => ?or, fun hv hp he hdst => ?singleOrx, fun hv hp he hdst => ?orLoThenOrxHi,
    fun hp => exec_fails ht ha (genMov_not_possible hp)⟩
  case or =>
    refine exec_emits ht ha ?_
    rw [generatorOf, genMov_or hsrc]
    exact genOrZero_emits hx hdst
  case singleOrx =>
    have horx := genOrxHi_emits (v := v) hlo hdst
    rw [recordField_movLo] at horx
    refine exec_emits ht ha ?_
    rw [generatorOf, genMov_singleOrx hv hp he]
    exact bind_emits (accepts_warn _ _ _) horx
  case orLoThenOrxHi =>
    have hout : okOut p a dst = true := okOut_of_okIn hdst
    have hor := genOrZero_emits (p := p) hlo hout
    rw [recordField_movLo] at hor
    exact exec_emits_twice ht ha (genMov_orLoThenOrxHi hv hp he) (bind_emits (accepts_warn _ _ _) hor)
      (genOrxHi_emits hdst hout)

/-- Settles O27: the generation of `jmp` is that of the `jext` it stands for, whose rule is O18's. -/
theorem jmpGenerates : Obligations.JmpGenerates := by
  intro s st rest a t ht ha
  have hsame : exec (.jmp t) s = exec (.jext (.number 0x7F) (.reg .gpr 0) (.reg .gpr 0) t) s := by
    rw [exec_generate ht, exec_generate ht]; rfl
  refine ⟨hsame, fun htarget => ?_⟩
  obtain ⟨-, -, -, -, -, hjext, -⟩ := extendedInstructionsGenerate
  have hr0 : okPair s.cfg.params a (.reg .gpr 0) (.reg .gpr 0) = true := by cases a <;> rfl
  rw [hsame]
  exact hjext s st rest a _ 0x7F _ _ t ht ha (.inl rfl) (by decide) (by rw [okCjmp, hr0, htarget]; rfl)

end Sys2Proof.Laws.Pseudo

/-! The encoder's stages before address assignment: directives, the entry jump, the fetch of a statement, and what generation
leaves unchanged (45_resolution.md rules R259 to R263). -/

namespace Sys2Proof.Laws.Stages

open Sys2Proof Sys2Proof.Machine Sys2Proof.Safety Sys2Proof.Claims Sys2Proof.Laws.Operands Sys2Proof.Laws.Generation
  Sys2Proof.Laws.Exec Sys2Proof.Laws.Steps

section

variable {s : State} {all todo rest : List Stmt} {archv : Option Int} {n : Int} {l : String} {a : Arch} {b : Bool}

/-! ### Directives -/

theorem step_scan (ht : s.task = .scan all todo archv) : step s = .next (scanStep all todo archv s) := by
  simp only [step, ht]

theorem setArch_native (h : normalizeArch n = some (a, false)) :
    setArch all n s = { s with cfg := { s.cfg with arch := some a }, task := .place all } := by
  simp [setArch, h]

theorem setArch_coerced (h : normalizeArch n = some (a, true)) :
    setArch all n s = { s with
      cfg := { s.cfg with arch := some a }, warnings := s.warnings ++ [⟨.W1, .value n, .none⟩], task := .place all } := by
  simp [setArch, h, State.warn]

theorem setArch_refused (h : normalizeArch n = none) : setArch all n s = s.raise .E3 (.value n) .none := by
  simp [setArch, h]

theorem normalizeArch_middle (hlo : 6 ≤ n) (hhi : n ≤ 14) : normalizeArch n = some (.rev5, true) := by
  rw [normalizeArch, if_neg (by omega), if_neg (by omega), if_pos ⟨hlo, hhi⟩]

theorem normalizeArch_large (h : 15 < n) : normalizeArch n = some (.rev15, true) := by
  rw [normalizeArch, if_neg (by omega), if_neg (by omega), if_neg (by omega), if_pos h]

theorem normalizeArch_small (h : n < 5) : normalizeArch n = none := by
  rw [normalizeArch, if_neg (by omega), if_neg (by omega), if_neg (by omega), if_neg (by omega)]

/-! ### The entry jump -/

theorem step_place (ht : s.task = .place all) : step s = .next (placeStep all s) := by
  simp only [step, ht]

theorem placeStep_without_entry (he : s.entry = none) :
    placeStep all s = { s with records := [], task := .generate all } := by
  simp only [placeStep, he]

theorem placeStep_with_entry (he : s.entry = some l) (ha : s.cfg.arch = some a) :
    placeStep all s = settle (genJmp (.labelRef l .absolute) s.cfg.params a) true none (.generate all)
      { s with records := [] } := by
  simp only [placeStep, he, ha]

/-- The one record of `jmp l` (44_pseudo.md rule R252). -/
theorem genJmp_label_emits (l : String) (p : Params) (a : Arch) :
    Emits (genJmp (.labelRef l .absolute) p a) []
      ⟨"jext", BitVec.ofNat 12 (p.opcodes.jext.toNat * 256 + 0x7F), recordField p a (.reg .gpr 0),
        recordField p a (.reg .gpr 0), .pending (.label l .absolute), true⟩ := by
  have hpair : WellFormed.okCjmp p a (.reg .gpr 0) (.reg .gpr 0) (.labelRef l .absolute) = true := by cases a <;> rfl
  have hjext := genCond_emits (m := "jext") (fam := (·.jext)) (c := .number Config.condAlways) (by decide) hpair
  rwa [condOpcode_eq (by decide)] at hjext

/-- Before any record the entry jump draws no `W4`. -/
theorem appendInsn_first {x : Emitted} (hx : Flags.isRetClass x.mnem = false) (isEntry : Bool) (loc : Option Nat)
    (hr : s.records = []) : s.appendInsn x isEntry loc = { s with records := [x.record isEntry loc] } := by
  simp [State.appendInsn, warnsReturnAfterJump, hx, hr]

/-! ### The fetch of a statement -/

theorem step_generate (ht : s.task = .generate todo) : step s = runFetched (fetchStatement todo s) s := by
  simp only [step, ht]

theorem fetchStatement_run {m : Mnemonic} {ops : List Operand} {loc : Option Nat} {i : Instr}
    (h : Statements.ofParts m ops = some i) : fetchStatement (.insn m ops loc :: rest) s = .run i := by
  simp only [fetchStatement, h]

theorem fetchStatement_unknown {m : Mnemonic} {ops : List Operand} {loc : Option Nat}
    (h : Statements.ofParts m ops = none) :
    fetchStatement (.insn m ops loc :: rest) s = .done (s.raise .E15 (.statement m ops.length) (sourceLoc loc)) := by
  simp only [fetchStatement, h]

end

/-! ### Mnemonics and operand lists -/

theorem ofParts_mnemonicOf_operandsOf (i : Instr) :
    Statements.ofParts (Statements.mnemonicOf i) (Statements.operandsOf i) = some i := by
  cases i <;> rfl

theorem mem_of_lookup {α : Type} {table : List (String × α)} {m : String} {f : α} (h : table.lookup m = some f) :
    (m, f) ∈ table := by
  obtain ⟨rows, rows', rfl, -⟩ := List.lookup_eq_some_iff.1 h
  simp

/-- An instruction is spelled by the mnemonic `m` and the operands `ops`. -/
def SpelledBy (m : Mnemonic) (ops : List Operand) (i : Instr) : Prop :=
  Statements.mnemonicOf i = m ∧ Statements.operandsOf i = ops

theorem table0_spelled : ∀ row ∈ Statements.table0, SpelledBy (.name row.1) [] row.2 := by
  simp [Statements.table0, SpelledBy, Statements.mnemonicOf, Statements.operandsOf]

theorem table1_spelled : ∀ row ∈ Statements.table1, ∀ x, SpelledBy (.name row.1) [x] (row.2 x) := by
  simp [Statements.table1, SpelledBy, Statements.mnemonicOf, Statements.operandsOf]

theorem table2_spelled : ∀ row ∈ Statements.table2, ∀ x y, SpelledBy (.name row.1) [x, y] (row.2 x y) := by
  simp [Statements.table2, SpelledBy, Statements.mnemonicOf, Statements.operandsOf]

theorem table3_spelled : ∀ row ∈ Statements.table3, ∀ x y z, SpelledBy (.name row.1) [x, y, z] (row.2 x y z) := by
  simp [Statements.table3, SpelledBy, Statements.mnemonicOf, Statements.operandsOf]

theorem table4_spelled : ∀ row ∈ Statements.table4, ∀ x y z u, SpelledBy (.name row.1) [x, y, z, u] (row.2 x y z u) := by
  simp [Statements.table4, SpelledBy, Statements.mnemonicOf, Statements.operandsOf]

theorem table5_spelled :
    ∀ row ∈ Statements.table5, ∀ x y z u v, SpelledBy (.name row.1) [x, y, z, u, v] (row.2 x y z u v) := by
  simp [Statements.table5, SpelledBy, Statements.mnemonicOf, Statements.operandsOf]

/-- A statement names an instruction only by that instruction's own mnemonic and operands. -/
theorem spelledBy_of_ofParts {m : Mnemonic} {ops : List Operand} {i : Instr} (h : Statements.ofParts m ops = some i) :
    SpelledBy m ops i := by
  unfold Statements.ofParts at h
  split at h
  · cases h
    exact ⟨rfl, rfl⟩
  · cases h
  · exact table0_spelled _ (mem_of_lookup h)
  · obtain ⟨f, hf, rfl⟩ := Option.map_eq_some_iff.1 h
    exact table1_spelled _ (mem_of_lookup hf) _
  · obtain ⟨f, hf, rfl⟩ := Option.map_eq_some_iff.1 h
    exact table2_spelled _ (mem_of_lookup hf) _ _
  · obtain ⟨f, hf, rfl⟩ := Option.map_eq_some_iff.1 h
    exact table3_spelled _ (mem_of_lookup hf) _ _ _
  · obtain ⟨f, hf, rfl⟩ := Option.map_eq_some_iff.1 h
    exact table4_spelled _ (mem_of_lookup hf) _ _ _ _
  · obtain ⟨f, hf, rfl⟩ := Option.map_eq_some_iff.1 h
    exact table5_spelled _ (mem_of_lookup hf) _ _ _ _ _
  · cases h

theorem ofParts_eq_some_iff {m : Mnemonic} {ops : List Operand} {i : Instr} :
    Statements.ofParts m ops = some i ↔ SpelledBy m ops i := by
  refine ⟨spelledBy_of_ofParts, ?_⟩
  rintro ⟨rfl, rfl⟩
  exact ofParts_mnemonicOf_operandsOf i

/-! ### The frame of generation -/

/-- Generation appends warnings at the statement's location and unaddressed records that are no entry jump, then goes on to
the next statement or stops with a fatal error. -/
theorem generateStatement_appends (g : Params → Arch → Gen Unit) (todo : List Stmt) (s : State) :
    ∃ ws rs, (∀ w ∈ ws, w.loc = sourceLoc (currentLoc todo)) ∧
      (∀ r ∈ rs, isInsn r = true ∧ isEntryRecord r = false ∧ recordAddr r = none) ∧
      (generateStatement g todo s =
          { s with warnings := s.warnings ++ ws, records := s.records ++ rs, task := .generate todo.tail } ∨
        ∃ c i l, generateStatement g todo s =
          { s with warnings := s.warnings ++ ws, records := s.records ++ rs }.raise c i l) := by
  unfold generateStatement
  split
  · exact ⟨[], [], by simp, by simp, .inr ⟨_, _, _, by simp only [List.append_nil]; rfl⟩⟩
  · rename_i a _
    obtain ⟨ws, rs, hs, hws, hrs⟩ := applyEvents_spec false (currentLoc todo) s (g s.cfg.params a).events
    refine ⟨ws, rs, hws, fun r hr => ?_, ?_⟩
    · rw [hrs, List.mem_filterMap] at hr
      obtain ⟨e, -, he⟩ := hr
      cases e with
      | warn c i => cases he
      | insn x => cases he; exact ⟨rfl, rfl, rfl⟩
    · simp only [settle, hs]
      split
      · exact .inl rfl
      · exact .inr ⟨_, _, _, rfl⟩

/-! ### The obligations -/

/-- Settles O30: generation only appends, and a fatal error of the encoder leaves the decoder's statements alone. -/
theorem generationFrame : Obligations.GenerationFrame := by
  intro s t todo i ht h
  rw [exec_generate ht] at h
  cases h
  obtain ⟨ws, rs, hws, hrs, hgo | ⟨c, info, loc, hstop⟩⟩ := generateStatement_appends (generatorOf i) todo s
  · rw [hgo]
    exact ⟨⟨rfl, rfl, rfl, rfl, rfl, rfl, rfl, rfl⟩, rfl, rfl, rfl, ⟨rs, rfl, hrs⟩, ⟨ws, rfl, hws⟩,
      fun _ => ⟨rfl, rfl, rfl, rfl⟩⟩
  · rw [hstop]
    exact ⟨⟨rfl, rfl, rfl, rfl, rfl, rfl, rfl, rfl⟩, rfl, rfl, by simp [ht, Task.engine], ⟨rs, rfl, hrs⟩,
      ⟨ws, rfl, hws⟩, fun hrun => absurd rfl hrun⟩

/-- Settles O15: an instruction statement runs the instruction it spells; every other statement is one update. -/
theorem stepRunsTheCurrentStatement : Obligations.StepRunsTheCurrentStatement := by
  refine ⟨fun s m ops loc rest ht => ⟨fun i hi => ?_, fun hnone => ?_, fun i => ofParts_eq_some_iff⟩,
    fun s rest name n loc => ⟨fun ht => ?_, fun ht => ?_, fun ht => ?_, fun ht => ?_⟩⟩
  · rw [step_generate ht, fetchStatement_run hi, runFetched]
  · rw [step_generate ht, fetchStatement_unknown hnone, runFetched]
  · exact step_generate ht
  · exact step_generate ht
  · exact step_generate ht
  · exact step_generate ht

/-- Settles O37: each range of values has its normal form, and the state follows it. -/
theorem architectureValueIsNormalized : Obligations.ArchitectureValueIsNormalized := by
  intro s all n ht arch
  have hstep : step s = .next (setArch all n s) := step_scan ht
  rw [hstep]
  refine ⟨?five, ?fifteen, fun hlo hhi => ?middle, fun h => ?large, fun h => ?small⟩
  case five =>
    rintro rfl
    rw [setArch_native rfl]
    simp [arch]
  case fifteen =>
    rintro rfl
    rw [setArch_native rfl]
    simp [arch]
  case middle => rw [setArch_coerced (normalizeArch_middle hlo hhi)]
  case large => rw [setArch_coerced (normalizeArch_large h)]
  case small => rw [setArch_refused (normalizeArch_small h)]

/-- Settles O38, statement by statement of the scan. -/
theorem directivesAreCounted : Obligations.DirectivesAreCounted := by
  intro s all rest n m l l' loc archv
  refine ⟨fun ht => step_scan ht, fun ht => step_scan ht, fun ht he => ?second, fun ht he => ?first,
    fun mn ops ht => step_scan ht, fun ht => step_scan ht, fun ht => step_scan ht⟩
  case second => simp only [step_scan ht, scanStep, he]
  case first => simp only [step_scan ht, scanStep, he]

/-- Settles O39: the entry jump is the generation of `jmp` to the entry label, before any other record. -/
theorem entryJumpIsPlacedFirst : Obligations.EntryJumpIsPlacedFirst := by
  intro s all a ht ha
  refine ⟨fun l he => ?_, fun he => ?_⟩
  · rw [step_place ht, placeStep_with_entry he ha, settle_emits (genJmp_label_emits l s.cfg.params a),
      appendInsn_first (show Flags.isRetClass "jext" = false by decide) true none rfl]
    rfl
  · rw [step_place ht, placeStep_without_entry he]

end Sys2Proof.Laws.Stages

/-! Label lookup by the positions of the definitions, and the elision of the entry jump (45_resolution.md rules R265, R269,
R272). -/

namespace Sys2Proof.Laws.Lookup

open Sys2Proof Sys2Proof.Machine Sys2Proof.Safety

/-! ### Lists in order -/

section Ordered

variable {α : Type} {r : α → α → Prop} {xs : List α} {x : α}

/-- The head of an ordered list is its least element. -/
theorem head?_eq_some_iff_of_pairwise (hasymm : ∀ a b, r a b → ¬ r b a) (h : xs.Pairwise r) :
    xs.head? = some x ↔ x ∈ xs ∧ ∀ y ∈ xs, ¬ r y x := by
  cases xs with
  | nil => simp
  | cons z zs =>
    obtain ⟨hz, -⟩ := List.pairwise_cons.1 h
    rw [List.head?_cons, Option.some_inj]
    constructor
    · rintro rfl
      refine ⟨List.mem_cons_self, fun y hy hyz => ?_⟩
      obtain rfl | hy := List.mem_cons.1 hy
      · exact hasymm _ _ hyz hyz
      · exact hasymm _ _ hyz (hz y hy)
    · rintro ⟨hx, hleast⟩
      obtain rfl | hx := List.mem_cons.1 hx
      · rfl
      · exact absurd (hz x hx) (hleast z List.mem_cons_self)

/-- The last element of an ordered list is its greatest. -/
theorem getLast?_eq_some_iff_of_pairwise (hasymm : ∀ a b, r a b → ¬ r b a) (h : xs.Pairwise r) :
    xs.getLast? = some x ↔ x ∈ xs ∧ ∀ y ∈ xs, ¬ r x y := by
  rw [← List.head?_reverse, head?_eq_some_iff_of_pairwise (fun a b => hasymm b a) (List.pairwise_reverse.2 h)]
  simp only [List.mem_reverse]

/-- An ordered list of more than one element holds two elements in order. -/
theorem one_lt_length_iff_of_pairwise (hasymm : ∀ a b, r a b → ¬ r b a) (h : xs.Pairwise r) :
    1 < xs.length ↔ ∃ x ∈ xs, ∃ y ∈ xs, r x y := by
  match xs, h with
  | [], _ => simp
  | [z], _ => simpa using fun hz => hasymm z z hz hz
  | z :: w :: ws, h =>
    have hzw : r z w := List.rel_of_pairwise_cons h List.mem_cons_self
    exact iff_of_true (by simp) ⟨z, by simp, w, by simp, hzw⟩

/-- An ordered list is one element alone when no element comes before or after that one. -/
theorem eq_singleton_iff_of_pairwise (hasymm : ∀ a b, r a b → ¬ r b a) (h : xs.Pairwise r) :
    xs = [x] ↔ x ∈ xs ∧ ∀ y ∈ xs, ¬ r x y ∧ ¬ r y x := by
  constructor
  · rintro rfl
    simpa using fun hx => hasymm x x hx hx
  · rintro ⟨hx, halone⟩
    match xs, h with
    | [z], _ => rw [List.mem_singleton.1 hx]
    | z :: w :: ws, h =>
      obtain rfl | hx := List.mem_cons.1 hx
      · exact absurd (List.rel_of_pairwise_cons h List.mem_cons_self) (halone w (by simp)).1
      · exact absurd (List.rel_of_pairwise_cons h hx) (halone z (by simp)).2

end Ordered

/-! ### Definitions by position -/

section Definitions

variable {rs : List Record} {name : String} {i : Nat} {ad : Option Nat}

/-- The record at position `i` defines `name`. -/
def DefinedAt (rs : List Record) (name : String) (i : Nat) : Prop := ∃ ad l, rs[i]? = some (.label name ad l)

/-- The record at position `i` defines `name` as the address `t`. -/
def DefinedAs (rs : List Record) (name : String) (t i : Nat) : Prop := ∃ l, rs[i]? = some (.label name (some t) l)

theorem mem_definitions : (i, ad) ∈ definitions rs name ↔ ∃ l, rs[i]? = some (.label name ad l) := by
  simp only [definitions, List.mem_filterMap]
  constructor
  · rintro ⟨⟨rec, j⟩, hmem, h⟩
    rw [List.mem_zipIdx_iff_getElem?] at hmem
    cases rec with
    | insn r => cases h
    | label n ad' l =>
      obtain ⟨rfl, rfl, rfl⟩ : n = name ∧ j = i ∧ ad' = ad := by simpa using h
      exact ⟨l, hmem⟩
  · rintro ⟨l, h⟩
    exact ⟨(.label name ad l, i), List.mem_zipIdx_iff_getElem?.2 h, by simp⟩

theorem definedAs_iff {t : Nat} : DefinedAs rs name t i ↔ (i, some t) ∈ definitions rs name := mem_definitions.symm

theorem definedAt_iff : DefinedAt rs name i ↔ ∃ d ∈ definitions rs name, d.1 = i := by
  constructor
  · rintro ⟨ad, h⟩
    exact ⟨(i, ad), mem_definitions.2 h, rfl⟩
  · rintro ⟨⟨i, ad⟩, hd, rfl⟩
    exact ⟨ad, mem_definitions.1 hd⟩

/-- The definitions stand in the order of their positions. -/
theorem definitions_pairwise (rs : List Record) (name : String) :
    (definitions rs name).Pairwise fun d e => d.1 < e.1 := by
  have hpositions : rs.zipIdx.Pairwise fun x y => x.2 < y.2 := by
    rw [← List.pairwise_map, List.zipIdx_map_snd]
    exact List.pairwise_lt_range'
  refine List.Pairwise.filterMap _ (fun x y hxy d hd e he => ?_) hpositions
  obtain ⟨rec, i⟩ := x
  obtain ⟨rec', j⟩ := y
  cases rec <;> cases rec' <;> simp at hd he
  rw [← hd.2, ← he.2]
  exact hxy

/-- What holds at every position that defines `name` holds of every definition. -/
theorem forall_definedAt {P : Nat → Prop} : (∀ j, DefinedAt rs name j → P j) ↔ ∀ d ∈ definitions rs name, P d.1 := by
  simp only [definedAt_iff]
  grind

/-- The definitions whose positions meet `p`, by those positions. -/
theorem filter_definitions_eq_nil_iff (p : Nat → Prop) [DecidablePred p] :
    ((definitions rs name).filter fun d => p d.1) = [] ↔ ∀ i, p i → ¬ DefinedAt rs name i := by
  have hall := forall_definedAt (rs := rs) (name := name) (P := fun i => ¬ p i)
  simp only [List.filter_eq_nil_iff, decide_eq_true_eq, ← hall]
  exact forall_congr' fun i => imp_not_comm

theorem getLast?_filter_definitions (p : Nat → Prop) [DecidablePred p] {t : Nat} :
    ((definitions rs name).filter fun d => p d.1).getLast? = some (i, some t) ↔
      p i ∧ DefinedAs rs name t i ∧ ∀ j, p j → DefinedAt rs name j → j ≤ i := by
  rw [getLast?_eq_some_iff_of_pairwise (fun _ _ => Nat.lt_asymm) ((definitions_pairwise rs name).filter _)]
  simp only [List.mem_filter, definedAs_iff, definedAt_iff]
  grind

theorem head?_filter_definitions (p : Nat → Prop) [DecidablePred p] {t : Nat} :
    ((definitions rs name).filter fun d => p d.1).head? = some (i, some t) ↔
      p i ∧ DefinedAs rs name t i ∧ ∀ j, p j → DefinedAt rs name j → i ≤ j := by
  rw [head?_eq_some_iff_of_pairwise (fun _ _ => Nat.lt_asymm) ((definitions_pairwise rs name).filter _)]
  simp only [List.mem_filter, definedAs_iff, definedAt_iff]
  grind

theorem definitions_eq_nil_iff : definitions rs name = [] ↔ ∀ i, ¬ DefinedAt rs name i := by
  rw [List.eq_nil_iff_forall_not_mem, forall_definedAt]

theorem one_lt_length_definitions_iff :
    1 < (definitions rs name).length ↔ ∃ i j, i < j ∧ DefinedAt rs name i ∧ DefinedAt rs name j := by
  rw [one_lt_length_iff_of_pairwise (fun _ _ => Nat.lt_asymm) (definitions_pairwise rs name)]
  simp only [definedAt_iff]
  grind

theorem definitions_eq_singleton_iff {t : Nat} :
    definitions rs name = [(i, some t)] ↔ DefinedAs rs name t i ∧ ∀ j, DefinedAt rs name j → j = i := by
  rw [eq_singleton_iff_of_pairwise (fun _ _ => Nat.lt_asymm) (definitions_pairwise rs name), definedAs_iff,
    forall_definedAt]
  grind

end Definitions

/-! ### Lookup -/

section Lookup

variable {rs : List Record} {k t : Nat} {name : String}

theorem definitionAddr_eq_ok_iff {d : Nat × Option Nat} : definitionAddr d = .ok t ↔ d.2 = some t := by
  unfold definitionAddr
  split <;> simp [*]

/-- What a definition without an address draws is neither `E9` nor `E10`: it names no label. -/
theorem definitionAddr_ne_error {d : Nat × Option Nat} {c : ECode} {l : String} :
    definitionAddr d ≠ .error ⟨c, .name l⟩ := by
  unfold definitionAddr
  split <;> simp

theorem lookup_absolute_none (h : definitions rs name = []) : lookup rs k name .absolute = .error ⟨.E9, .name name⟩ := by
  simp only [lookup, h]

theorem lookup_absolute_one {d : Nat × Option Nat} (h : definitions rs name = [d]) :
    lookup rs k name .absolute = definitionAddr d := by
  simp only [lookup, h]

theorem lookup_absolute_many (h : 1 < (definitions rs name).length) :
    lookup rs k name .absolute = .error ⟨.E10, .name name⟩ := by
  match hd : definitions rs name with
  | [] | [_] => simp [hd] at h
  | _ :: _ :: _ => simp only [lookup, hd]

/-- The three outcomes of an absolute reference, by the definitions of its name (45_resolution.md rule R272). -/
theorem lookup_absolute_iff :
    (lookup rs k name .absolute = .ok t ↔ ∃ i, definitions rs name = [(i, some t)]) ∧
    (lookup rs k name .absolute = .error ⟨.E9, .name name⟩ ↔ definitions rs name = []) ∧
    (lookup rs k name .absolute = .error ⟨.E10, .name name⟩ ↔ 1 < (definitions rs name).length) := by
  match hd : definitions rs name with
  | [] => simp [lookup_absolute_none hd]
  | [(i, ad)] => simp [lookup_absolute_one hd, definitionAddr_eq_ok_iff, definitionAddr_ne_error]
  | d :: e :: ds => simp [lookup_absolute_many (show 1 < (definitions rs name).length by simp [hd])]

/-- A relative reference chooses the definition `o`, or none (45_resolution.md rule R272). -/
def Chooses (rs : List Record) (k : Nat) (name : String) (dir : RefDir) (o : Option (Nat × Option Nat)) : Prop :=
  lookup rs k name dir = o.elim (.error ⟨.E9, .name name⟩) definitionAddr

theorem chooses_backward : Chooses rs k name .backward ((definitions rs name).filter fun d => d.1 < k).getLast? := by
  unfold Chooses lookup
  cases ((definitions rs name).filter fun d => d.1 < k).getLast? <;> rfl

theorem chooses_forward : Chooses rs k name .forward ((definitions rs name).filter fun d => k < d.1).head? := by
  unfold Chooses lookup
  cases ((definitions rs name).filter fun d => k < d.1).head? <;> rfl

theorem Chooses.eq_ok_iff {dir : RefDir} {o : Option (Nat × Option Nat)} (h : Chooses rs k name dir o) :
    lookup rs k name dir = .ok t ↔ ∃ i, o = some (i, some t) := by
  rw [h]
  cases o with
  | none => simp
  | some d =>
    obtain ⟨i, ad⟩ := d
    simp [definitionAddr_eq_ok_iff]

theorem Chooses.eq_E9_iff {dir : RefDir} {o : Option (Nat × Option Nat)} (h : Chooses rs k name dir o) :
    lookup rs k name dir = .error ⟨.E9, .name name⟩ ↔ o = none := by
  rw [h]
  cases o <;> simp [definitionAddr_ne_error]

end Lookup

/-! ### Elision -/

section Elision

variable {s : State} {r : InsnRec} {rs : List Record} {l : String} {t : Nat}

theorem step_elide (ht : s.task = .elide) : step s = .next (elideStep s) := by simp only [step, ht]

theorem findIdx?_entryFirst (hr : s.records = .insn r :: rs) (he : r.isEntryJump = true) :
    s.records.findIdx? isEntryRecord = some 0 := by
  simp [hr, List.findIdx?_cons, isEntryRecord, he]

theorem elideStep_ok (hr : s.records = .insn r :: rs) (he : r.isEntryJump = true) (hl : s.entry = some l)
    (h : lookup s.records 0 l .absolute = .ok t) :
    elideStep s = if t = 1 then { s with records := rs, task := .startPass } else { s with task := .resolve 0 } := by
  have herase : s.records.eraseIdx 0 = rs := by rw [hr]; rfl
  simp only [elideStep, findIdx?_entryFirst hr he, hl, h, herase]

theorem elideStep_error {e : Err} (hr : s.records = .insn r :: rs) (he : r.isEntryJump = true) (hl : s.entry = some l)
    (h : lookup s.records 0 l .absolute = .error e) : elideStep s = s.raise e.code e.info .none := by
  simp only [elideStep, findIdx?_entryFirst hr he, hl, h]

theorem findIdx?_noEntry (h : NoEntry s.records) : s.records.findIdx? isEntryRecord = none :=
  List.findIdx?_eq_none_iff.2 h

theorem elideStep_noEntry (h : NoEntry s.records) : elideStep s = { s with task := .resolve 0 } := by
  simp only [elideStep, findIdx?_noEntry h]

end Elision

/-! ### The obligations -/

/-- Settles O41: the definitions in record order, of which each direction takes its own by position. -/
theorem lookupFindsTheStatedDefinition : Obligations.LookupFindsTheStatedDefinition := by
  intro rs k name t isDef isDefAt _
  obtain ⟨hok, hE9, hE10⟩ := lookup_absolute_iff (rs := rs) (k := k) (t := t) (name := name)
  refine ⟨?absolute, ?absoluteE9, ?absoluteE10, ?backward, ?backwardE9, ?forward, ?forwardE9⟩
  case absolute => exact hok.trans (exists_congr fun i => definitions_eq_singleton_iff)
  case absoluteE9 => exact hE9.trans definitions_eq_nil_iff
  case absoluteE10 => exact hE10.trans one_lt_length_definitions_iff
  case backward => exact chooses_backward.eq_ok_iff.trans (exists_congr fun i => getLast?_filter_definitions (· < k))
  case backwardE9 =>
    rw [chooses_backward.eq_E9_iff, List.getLast?_eq_none_iff]
    exact filter_definitions_eq_nil_iff (· < k)
  case forward => exact chooses_forward.eq_ok_iff.trans (exists_congr fun i => head?_filter_definitions (k < ·))
  case forwardE9 =>
    rw [chooses_forward.eq_E9_iff, List.head?_eq_none_iff]
    exact filter_definitions_eq_nil_iff (k < ·)

/-- Settles O40: the entry jump is the first record, and its label is looked up as an absolute reference. -/
theorem entryJumpToTheNextAddressIsElided : Obligations.EntryJumpToTheNextAddressIsElided := by
  refine ⟨fun s r rs l ht hr he hl => ⟨fun j t hdefs => ?_, fun hdefs => ?_, fun hdefs => ?_⟩, fun s ht hno => ?_⟩
  · rw [step_elide ht, elideStep_ok hr he hl (lookup_absolute_one hdefs)]
  · rw [step_elide ht, elideStep_error hr he hl (lookup_absolute_none hdefs)]
  · rw [step_elide ht, elideStep_error hr he hl (lookup_absolute_many hdefs)]
  · rw [step_elide ht, elideStep_noEntry]
    intro rec hrec
    cases rec with
    | insn r => exact hno r hrec
    | label n ad l => rfl

end Sys2Proof.Laws.Lookup

/-! The internal error `E12` (45_resolution.md rule R270, 60_exceptions.md rule R386): every other fatal error of a step has a
code of its own, and no consistent state meets an internal check. -/

namespace Sys2Proof.Laws.Internal

open Sys2Proof Sys2Proof.Machine Sys2Proof.Safety Sys2Proof.Claims Sys2Proof.Laws.Operands Sys2Proof.Laws.Generation
  Sys2Proof.Laws.Exec Sys2Proof.Laws.Steps Sys2Proof.Laws.Encoding Sys2Proof.Laws.References Sys2Proof.Laws.Acceptance

/-- No internal error is recorded. -/
def NotInternal (s : State) : Prop := ∀ d, s.fatal = some d → d.code ≠ .E12

theorem notInternal_raise {s : State} {c : ECode} {i : Info} {l : Loc} (hc : c ≠ .E12) : NotInternal (s.raise c i l) := by
  rintro d ⟨⟩
  exact hc

theorem notInternal_of_fatal_none {s : State} (h : s.fatal = none) : NotInternal s := by simp [NotInternal, h]

/-! ### The codes of the checks that stop a run -/

theorem ne_E12_of_mem_genCodes {c : ECode} (h : c ∈ genCodes) : c ≠ .E12 := by
  rintro rfl
  exact absurd h (by decide)

/-- A generation stops with a code of 60_exceptions.md rule R387. -/
theorem generatorOf_error {p : Params} {a : Arch} {i : Instr} {e : Err} (h : (generatorOf i p a).result = .error e) :
    e.code ≠ .E12 := by
  have hdec := generatorOf_decided p a i
  cases hwf : i.wellFormed p a with
  | true => simp [(hdec.accepts hwf).ok] at h
  | false =>
    obtain ⟨e', he', hcode⟩ := hdec.refuses hwf
    obtain rfl : e' = e := by simpa [he'] using h
    exact ne_E12_of_mem_genCodes hcode

/-- After address assignment every label has its address. -/
theorem labelsAddressed_of_addressed {rs : List Record} (h : Addressed rs rs.length) : LabelsAddressed rs := by
  intro n ad l hmem
  obtain ⟨j, hj⟩ := List.mem_iff_getElem?.1 hmem
  obtain ⟨hlt, -⟩ := List.getElem?_eq_some_iff.1 hj
  have haddr : ad = some (insnCount (rs.take j)) := h j _ hlt hj
  simp [haddr]

theorem lookup_error_ne_E12 {rs : List Record} {k : Nat} {name : String} {dir : RefDir} {e : Err}
    (hl : LabelsAddressed rs) (h : lookup rs k name dir = .error e) : e.code ≠ .E12 := by
  obtain ⟨c, rfl | rfl, rfl⟩ := lookup_error hl h <;> nofun

theorem resolveField_error {a : Arch} {rs : List Record} {k slot : Nat} {f : Field} {e : Err} (hl : LabelsAddressed rs)
    (h : resolveField a rs k slot f = .error e) : e.code ≠ .E12 := by
  unfold resolveField at h
  split at h
  · cases h
  · cases h
  · split at h
    · rename_i hlookup
      cases h
      exact lookup_error_ne_E12 hl hlookup
    · cases h

theorem resolveInsn_some {a : Arch} {rs : List Record} {k : Nat} {r r' : InsnRec} {e : Err} (hl : LabelsAddressed rs)
    (h : resolveInsn a rs k r = (r', some e)) : e.code ≠ .E12 := by
  unfold resolveInsn at h
  split at h
  · rename_i h0
    cases h
    exact resolveField_error hl h0
  · split at h
    · rename_i h1
      cases h
      exact resolveField_error hl h1
    · split at h
      · rename_i h2
        cases h
        exact resolveField_error hl h2
      · cases h

theorem isValue_iff {f : Field} : isValue f = true ↔ ∃ v, f = .value v := by
  cases f <;> simp [isValue]

theorem of_or_eq_some {P : Prop} {x y : Option Err} {e : Err} (h : x.or y = some e) (hx : x = some e → P)
    (hy : y = some e → P) : P :=
  (Option.or_eq_some_iff.1 h).elim hx fun ⟨_, h⟩ => hy h

/-- An argument check draws `E20` or `E21` (48_initvals.md rule R359). -/
theorem checkArgs_some {op : InitvalOp} {e : Err} (h : checkArgs op = some e) : e.code = .E20 ∨ e.code = .E21 := by
  have hwidth {n v : Nat} (h : checkWidth n v = some e) : e.code = .E20 ∨ e.code = .E21 := by
    unfold checkWidth at h
    split at h <;> cases h
    exact .inl rfl
  have hoff {off : Nat} (h : checkShmOffset off = some e) : e.code = .E20 ∨ e.code = .E21 :=
    of_or_eq_some h hwidth fun h => by
      split at h <;> cases h
      exact .inr rfl
  cases op with
  | mmio16 off v | mmio32 off v => exact hwidth h
  | phy reg v | radio reg v | tram reg v => exact of_or_eq_some h hwidth hwidth
  | shm16 routing off v | shm32 routing off v => exact of_or_eq_some h hwidth fun h => of_or_eq_some h hoff hwidth

/-- What the decoder yields has a recipe, and its target is an address (47_decoder.md rule R320). -/
theorem recipeOf_of_canonical {p : Params} {typed : Bool} {a : Arch} {i : Instr} (h : i.canonical p typed a = true) :
    ∃ r, recipeOf i p = some r ∧ (r.target = none ∨ ∃ t, r.target = some (.address t)) := by
  have hjump {op : Operand} (hop : WellFormed.canonTarget a op = true) : ∃ t, op = .address t := by
    cases op <;> simp [WellFormed.canonTarget] at hop ⊢
  cases i with
  | mov src dst | jmp t => cases h
  | jzx m s x y t | jnzx m s x y t | jext c x y t | jnext c x y t | jand x y t | jnand x y t | js x y t | jns x y t
  | je x y t | jne x y t | jls x y t | jges x y t | jgs x y t | jles x y t | jdn x y t | jdpz x y t | jdp x y t
  | jdnz x y t | jl x y t | jge x y t | jg x y t | jle x y t | call lr t =>
    obtain ⟨u, rfl⟩ := hjump (Bool.and_eq_true_iff.1 h).2
    exact ⟨_, rfl, .inr ⟨u, rfl⟩⟩
  | calls t =>
    obtain ⟨u, rfl⟩ := hjump h
    exact ⟨_, rfl, .inr ⟨u, rfl⟩⟩
  | _ => exact ⟨_, rfl, .inl rfl⟩

/-- The check of an address stops with `E18`, or passes and changes the markers alone. -/
theorem recordTarget_address_cases {o : Option Operand} (ho : o = none ∨ ∃ t, o = some (.address t)) (k : Nat)
    (s : State) :
    (∃ i l, recordTarget o k s = (s.raise .E18 i l, false)) ∨
      ∃ ts, recordTarget o k s = ({ s with targets := ts }, true) := by
  obtain rfl | ⟨t, rfl⟩ := ho
  · exact .inr ⟨s.targets, recordTarget_none k s⟩
  · by_cases ht : t < s.count
    · exact .inr ⟨_, recordTarget_inRange ht⟩
    · exact .inl ⟨_, _, recordTarget_outOfRange (Nat.le_of_not_lt ht)⟩

/-! ### The stages of a running unit -/

section Stages

variable {s : State} (hf : s.fatal = none)
include hf

theorem scanStep_notInternal (all todo : List Stmt) (archv : Option Int) : NotInternal (scanStep all todo archv s) := by
  have hset (n : Int) : NotInternal (setArch all n s) := by
    unfold setArch
    split
    · exact notInternal_raise nofun
    · rename_i a coerced _
      cases coerced <;> exact notInternal_of_fatal_none hf
  unfold scanStep
  split
  · split
    · exact notInternal_raise nofun
    · exact notInternal_of_fatal_none hf
  · split
    · exact notInternal_raise nofun
    · exact notInternal_of_fatal_none hf
  · exact notInternal_of_fatal_none hf
  · exact notInternal_of_fatal_none hf
  · split
    · exact notInternal_raise nofun
    · exact hset _

/-- A whole generation records its own fatal error or none. -/
theorem settle_notInternal {g : Gen Unit} (hg : ∀ e, g.result = .error e → e.code ≠ .E12) (isEntry : Bool)
    (loc : Option Nat) (next : Task) : NotInternal (settle g isEntry loc next s) := by
  obtain ⟨ws, rs, hs, -⟩ := applyEvents_spec isEntry loc s g.events
  simp only [settle, hs]
  split
  · exact notInternal_of_fatal_none hf
  · rename_i e he
    exact notInternal_raise (hg e he)

theorem placeStep_notInternal {all : List Stmt} (h : StageConsistent { s with task := .place all }) :
    NotInternal (placeStep all s) := by
  obtain ⟨-, -, harch⟩ := h
  obtain ⟨a, ha⟩ : ∃ a, s.cfg.arch = some a := Option.isSome_iff_exists.1 harch
  simp only [placeStep, ha]
  split
  · exact notInternal_of_fatal_none hf
  · rename_i l _
    exact settle_notInternal (s := { s with records := [] }) hf
      (fun e => generatorOf_error (i := .jmp (.labelRef l .absolute))) _ _ _

theorem fetchStatement_notInternal {todo : List Stmt} {t : State} (h : fetchStatement todo s = .done t) :
    NotInternal t := by
  unfold fetchStatement at h
  split at h
  · cases h
    exact notInternal_of_fatal_none hf
  · split at h
    · cases h
    · cases h
      exact notInternal_raise nofun
  all_goals
    cases h
    exact notInternal_of_fatal_none hf

theorem exec_generate_notInternal {todo : List Stmt} {i : Instr} {t : State} (ht : s.task = .generate todo)
    (hs : StageConsistent { s with task := .generate todo }) (h : exec i s = .next t) : NotInternal t := by
  obtain ⟨-, -, harch, -⟩ := hs
  obtain ⟨a, ha⟩ : ∃ a, s.cfg.arch = some a := Option.isSome_iff_exists.1 harch
  rw [exec_generate ht] at h
  cases h
  simp only [generateStatement, ha]
  exact settle_notInternal hf (fun e => generatorOf_error) _ _ _

/-- Under the default cap a consistent state has a pass left (45_resolution.md rule R270). -/
theorem startPassStep_notInternal (hp : s.cfg.params = Params.default)
    (h : StageConsistent { s with task := .startPass }) : NotInternal (startPassStep s) := by
  obtain ⟨-, -, -, hpasses⟩ := h
  have hpasses : s.passes = 0 ∨ s.passes = 1 ∧ NoEntry s.records := hpasses
  have hcap : ¬ s.cfg.params.resolveCap < s.passes + 1 := by
    rw [hp, show Params.default.resolveCap = 2 from rfl]
    omega
  simp only [startPassStep, if_neg hcap]
  exact notInternal_of_fatal_none hf

theorem assignStep_notInternal (k : Nat) : NotInternal (assignStep k s) := by
  unfold assignStep
  split <;> exact notInternal_of_fatal_none hf

theorem elideStep_notInternal (h : StageConsistent { s with task := .elide }) : NotInternal (elideStep s) := by
  obtain ⟨-, -, ⟨-, hnone⟩, -, haddressed, -⟩ := h
  unfold elideStep
  split
  · exact notInternal_of_fatal_none hf
  · rename_i e he
    split
    · rename_i hentry
      exact absurd (hnone hentry) (not_noEntry_of_findIdx? he)
    · split
      · rename_i err herr
        exact notInternal_raise (lookup_error_ne_E12 (labelsAddressed_of_addressed haddressed) herr)
      · split <;> exact notInternal_of_fatal_none hf

theorem resolveStep_notInternal {k : Nat} (h : StageConsistent { s with task := .resolve k }) :
    NotInternal (resolveStep k s) := by
  obtain ⟨-, harch, -, haddressed, -, -⟩ := h
  obtain ⟨a, ha⟩ : ∃ a, s.cfg.arch = some a := Option.isSome_iff_exists.1 harch
  cases hr : s.records[k]? with
  | none => exact resolveStep_end hr ▸ notInternal_of_fatal_none hf
  | some rec =>
    cases rec with
    | label n ad l => exact resolveStep_label hr ▸ notInternal_of_fatal_none hf
    | insn r =>
      obtain ⟨r', o, hres⟩ : ∃ r' o, resolveInsn a s.records k r = (r', o) := ⟨_, _, rfl⟩
      cases o with
      | none => exact resolveStep_insn_ok ha hr hres ▸ notInternal_of_fatal_none hf
      | some e =>
        have hcode := resolveInsn_some (labelsAddressed_of_addressed haddressed) hres
        exact resolveStep_insn_error ha hr hres ▸ notInternal_raise hcode

theorem emitHeadStep_notInternal (h : StageConsistent { s with task := .emitHead }) : NotInternal (emitHeadStep s) := by
  obtain ⟨-, harch, -⟩ := h
  obtain ⟨a, ha⟩ : ∃ a, s.cfg.arch = some a := Option.isSome_iff_exists.1 harch
  simp only [emitHeadStep, ha]
  split
  all_goals
    split
    case' h_1 => split
    all_goals exact notInternal_of_fatal_none hf

/-- A resolved record is packed: none of its fields waits for an address (46_emission.md rule R293). -/
theorem emitInsn_notInternal {a : Arch} {r : InsnRec} (hr : isResolved (.insn r) = true) : NotInternal (emitInsn a r s) := by
  simp only [isResolved, Bool.and_eq_true] at hr
  obtain ⟨⟨h0, h1⟩, h2⟩ := hr
  obtain ⟨v0, h0⟩ := isValue_iff.1 h0
  obtain ⟨v1, h1⟩ := isValue_iff.1 h1
  obtain ⟨v2, h2⟩ := isValue_iff.1 h2
  simp only [emitInsn, h0, h1, h2]
  split <;> exact notInternal_of_fatal_none hf

theorem emitWordStep_notInternal {k : Nat} (h : StageConsistent { s with task := .emitWord k }) :
    NotInternal (emitWordStep k s) := by
  obtain ⟨-, harch, -, -, -, hresolved⟩ := h
  obtain ⟨a, ha⟩ : ∃ a, s.cfg.arch = some a := Option.isSome_iff_exists.1 harch
  unfold emitWordStep
  split
  · exact notInternal_of_fatal_none hf
  · exact notInternal_of_fatal_none hf
  · rename_i r hr
    simp only [ha]
    refine emitInsn_notInternal (s := { s with task := .emitWord (k + 1) }) hf (hresolved _ ?_)
    simpa using List.mem_of_getElem? hr

theorem ingestStep_notInternal (bs : List Byte) : NotInternal (ingestStep bs s) := by
  unfold ingestStep
  split
  · exact notInternal_raise nofun
  · exact notInternal_of_fatal_none hf

theorem unpackStep_notInternal {body : List Byte} (h : StageConsistent { s with task := .unpack body }) :
    NotInternal (unpackStep body s) := by
  obtain ⟨⟨a, ha, -⟩, hlen, -⟩ := h
  have ha : s.cfg.arch = some a := ha
  have hlen : body.length + 8 * s.words.length = 8 * s.count := hlen
  unfold unpackStep
  simp only [ha]
  split
  · exact notInternal_of_fatal_none hf
  · rw [if_neg (by omega)]
    split
    · exact notInternal_of_fatal_none hf
    · exact notInternal_raise nofun

theorem fetchWord_notInternal {k : Nat} {t : State} (hs : StageConsistent { s with task := .classify k })
    (h : fetchWord k s = .done t) : NotInternal t := by
  obtain ⟨⟨a, ha, -⟩, -⟩ := hs
  have ha : s.cfg.arch = some a := ha
  unfold fetchWord at h
  split at h
  · rename_i hnone
    simp [ha] at hnone
  · cases h
    exact notInternal_of_fatal_none hf
  · split at h
    · cases h
    · cases h
      exact notInternal_raise nofun

theorem deliver_notInternal {i : Instr} {r : Recipe} {k : Nat} {a : Arch} {w : Word} (ha : s.cfg.arch = some a)
    (hw : s.words[k]? = some w) (hr : r.target = none ∨ ∃ t, r.target = some (.address t)) :
    NotInternal (deliver i r k s) := by
  obtain ⟨i, l, h⟩ | ⟨ts, h⟩ := recordTarget_address_cases hr k
    { s with warnings := s.warnings ++ logged (.word k) (lrWarnings s.cfg.params (Decode.unpack a w) r.lrSlots) }
  · exact deliver_stops ha hw h ▸ notInternal_raise nofun
  · exact deliver_ok ha hw h ▸ notInternal_of_fatal_none hf

/-- The word fetched is one the decoder delivers (47_decoder.md rules R314, R315). -/
theorem exec_fetched_notInternal {k : Nat} {i : Instr} {t : State} (hp : s.cfg.params = Params.default)
    (ht : s.task = .classify k) (hi : fetchWord k s = .run i) (h : exec i s = .next t) : NotInternal t := by
  unfold fetchWord at hi
  split at hi
  · cases hi
  · cases hi
  · rename_i a w ha hw
    split at hi
    · rename_i hd
      cases hi
      rw [hp] at hd
      obtain ⟨r, hr, htarget⟩ := recipeOf_of_canonical (decodedInstructionIsCanonical _ _ _ _ hd)
      rw [exec_classify ht, hp, hr] at h
      cases h
      exact deliver_notInternal hf ha hw htarget
    · cases hi

theorem nameLabelsStep_notInternal (h : StageConsistent { s with task := .nameLabels }) :
    NotInternal (nameLabelsStep s) := by
  obtain ⟨harch, -⟩ := h
  obtain ⟨a, ha⟩ : ∃ a, s.cfg.arch = some a := Option.isSome_iff_exists.1 harch
  simp only [nameLabelsStep, ha]
  exact notInternal_of_fatal_none hf

theorem buildStep_notInternal (k : Nat) : NotInternal (buildStep k s) := by
  unfold buildStep
  split <;> exact notInternal_of_fatal_none hf

theorem expandStep_notInternal (todo : List InitvalOp) (j : Nat) : NotInternal (expandStep todo j s) := by
  unfold expandStep
  split
  · exact notInternal_of_fatal_none hf
  · split
    · rename_i e he
      refine notInternal_raise ?_
      obtain h | h := checkArgs_some he <;> simp [h]
    · exact notInternal_of_fatal_none hf

theorem checkOffsetStep_notInternal (k : Nat) : NotInternal (checkOffsetStep k s) := by
  unfold checkOffsetStep
  split
  · exact notInternal_of_fatal_none hf
  · split
    · exact notInternal_raise nofun
    · exact notInternal_of_fatal_none hf

theorem ivsHeadStep_notInternal : NotInternal (ivsHeadStep s) := by
  unfold ivsHeadStep
  split <;> exact notInternal_of_fatal_none hf

theorem ivsRecordStep_notInternal (k : Nat) : NotInternal (ivsRecordStep k s) := by
  unfold ivsRecordStep
  split
  · exact notInternal_of_fatal_none hf
  · split <;> exact notInternal_of_fatal_none hf

/-- No step of a running unit records an internal error, when its stage holds what it has to. -/
theorem step_notInternal {t : State} (hp : s.cfg.params = Params.default) (hs : StageConsistent s)
    (hrun : s.task ≠ .idle) (h : step s = .next t) : NotInternal t := by
  revert h
  unfold step
  have hstage {T : Task} (ht : s.task = T) : StageConsistent { s with task := T } := ht ▸ hs
  cases ht : s.task with
  | idle => exact absurd ht hrun
  | scan all todo archv => rintro ⟨⟩; exact scanStep_notInternal hf all todo archv
  | place all => rintro ⟨⟩; exact placeStep_notInternal hf (hstage ht)
  | generate todo =>
    dsimp only
    cases hfetch : fetchStatement todo s with
    | run i => exact exec_generate_notInternal hf ht (hstage ht)
    | done u => rintro ⟨⟩; exact fetchStatement_notInternal hf hfetch
  | startPass => rintro ⟨⟩; exact startPassStep_notInternal hf hp (hstage ht)
  | assign k => rintro ⟨⟩; exact assignStep_notInternal hf k
  | elide => rintro ⟨⟩; exact elideStep_notInternal hf (hstage ht)
  | resolve k => rintro ⟨⟩; exact resolveStep_notInternal hf (hstage ht)
  | emitHead => rintro ⟨⟩; exact emitHeadStep_notInternal hf (hstage ht)
  | emitWord k => rintro ⟨⟩; exact emitWordStep_notInternal hf (hstage ht)
  | ingest bytes => rintro ⟨⟩; exact ingestStep_notInternal hf bytes
  | unpack body => rintro ⟨⟩; exact unpackStep_notInternal hf (hstage ht)
  | classify k =>
    dsimp only
    cases hfetch : fetchWord k s with
    | run i => exact exec_fetched_notInternal hf hp ht hfetch
    | done u => rintro ⟨⟩; exact fetchWord_notInternal hf (hstage ht) hfetch
  | nameLabels => rintro ⟨⟩; exact nameLabelsStep_notInternal hf (hstage ht)
  | build k => rintro ⟨⟩; exact buildStep_notInternal hf k
  | expand todo j => rintro ⟨⟩; exact expandStep_notInternal hf todo j
  | checkOffset k => rintro ⟨⟩; exact checkOffsetStep_notInternal hf k
  | ivsHead => rintro ⟨⟩; exact ivsHeadStep_notInternal hf
  | ivsRecord k => rintro ⟨⟩; exact ivsRecordStep_notInternal hf k

end Stages

/-! ### The cap -/

theorem step_startPass {s : State} (ht : s.task = .startPass) : step s = .next (startPassStep s) := by
  simp only [step, ht]

theorem startPassStep_cap {s : State} (h : s.cfg.params.resolveCap < s.passes + 1) :
    startPassStep s =
      { s with passes := s.passes + 1 }.raise .E12 (.text "address resolution did not converge") .none := by
  simp only [startPassStep, if_pos h]

/-- Settles O59: the cap stops the pass beyond it, and no stage of a consistent state comes to it or to another internal
check. -/
theorem resolutionCapIsNeverReached : Obligations.ResolutionCapIsNeverReached := by
  refine ⟨fun s ht hcap => ?_, fun s t hp hc hrun h => ?_⟩
  · exact ⟨_, (step_startPass ht).trans (congrArg _ (startPassStep_cap hcap)), rfl, rfl, rfl⟩
  · exact step_notInternal (hc.running hrun).1 hp hc.stage hrun h

end Sys2Proof.Laws.Internal

/-! Emission: the head of the stream, one record, and the completed output (46_emission.md rules R290 to R295,
45_resolution.md rule R274). -/

namespace Sys2Proof.Laws.Emission

open Sys2Proof Sys2Proof.Machine Sys2Proof.Safety Sys2Proof.Laws.Steps Sys2Proof.Laws.Encoding

/-! ### The head -/

/-- The ceiling warning of a program of `n` instructions (46_emission.md rule R295). -/
def ceilingWarning (limit : Option Nat) (n : Nat) : List Warning :=
  if limit.any (· < n) then [⟨.W6, .value n, .none⟩] else []

/-- The bytes before the first word (46_emission.md rules R293, R294). -/
def ucodeHead (s : State) : List Byte :=
  if s.cfg.outFmt = .b43 then header s.cfg.params s.cfg.params.hdrTypeUcode (8 * s.count) else []

/-- The size field is most significant byte first (46_emission.md rule R294). -/
theorem be32_eq (n : Nat) :
    Decode.be32 n =
      [BitVec.ofNat 8 (n / 16777216), BitVec.ofNat 8 (n / 65536), BitVec.ofNat 8 (n / 256), BitVec.ofNat 8 n] := by
  simp [Decode.be32, Decode.byteAt]

section Step

variable {s : State} {a : Arch} {k : Nat} {r : InsnRec}

theorem step_emitHead (ht : s.task = .emitHead) : step s = .next (emitHeadStep s) := by simp only [step, ht]

theorem emitHeadStep_eq (ha : s.cfg.arch = some a) :
    emitHeadStep s = { s with
      warnings := s.warnings ++ ceilingWarning (s.cfg.params.maxInsns a) s.count
      out := s.out ++ ucodeHead s
      task := .emitWord 0 } := by
  simp only [emitHeadStep, ha]
  cases hm : s.cfg.params.maxInsns a with
  | none => cases hf : s.cfg.outFmt <;> simp [ceilingWarning, ucodeHead, State.emit, hf]
  | some m =>
    by_cases hlt : m < s.count
    · cases hf : s.cfg.outFmt <;> simp [ceilingWarning, ucodeHead, State.warn, State.emit, hf, hlt]
    · cases hf : s.cfg.outFmt <;> simp [ceilingWarning, ucodeHead, State.emit, hf, hlt]

/-! ### One record -/

theorem step_emitWord (ht : s.task = .emitWord k) : step s = .next (emitWordStep k s) := by simp only [step, ht]

theorem emitWordStep_end (hr : s.records[k]? = none) : emitWordStep k s = s.complete := by
  simp only [emitWordStep, hr]

theorem emitWordStep_label {n : String} {ad l : Option Nat} (hr : s.records[k]? = some (.label n ad l)) :
    emitWordStep k s = { s with task := .emitWord (k + 1) } := by
  simp only [emitWordStep, hr]

theorem emitWordStep_insn (ha : s.cfg.arch = some a) (hr : s.records[k]? = some (.insn r)) :
    emitWordStep k s = emitInsn a r { s with task := .emitWord (k + 1) } := by
  simp only [emitWordStep, hr, ha]

theorem fieldsFit_iff {x : Decode.WordFields} :
    FieldsFit a x ↔ x.f0 < 2 ^ Config.fw a ∧ x.f1 < 2 ^ Config.fw a ∧ x.f2 < 2 ^ Config.fw a :=
  ⟨fun ⟨h0, h1, h2⟩ => ⟨h0, h1, h2⟩, fun ⟨h0, h1, h2⟩ => ⟨h0, h1, h2⟩⟩

/-- The packer truncates nothing exactly when every field fits (46_emission.md rule R291). -/
theorem truncated_eq_none {x : Decode.WordFields} : Decode.truncated a x = none ↔ FieldsFit a x := by
  simp [Decode.truncated, fieldsFit_iff]

theorem le_of_truncated {x : Decode.WordFields} {f : Nat} (h : Decode.truncated a x = some f) : 2 ^ Config.fw a ≤ f := by
  simpa using List.find?_some h

/-- The packer warning of a record (46_emission.md rule R291). -/
def packWarning (a : Arch) (x : Decode.WordFields) (loc : Option Nat) : List Warning :=
  (Decode.truncated a x).toList.map fun f => ⟨.W8, .value f, sourceLoc loc⟩

theorem packWarning_fits {x : Decode.WordFields} {loc : Option Nat} (h : FieldsFit a x) : packWarning a x loc = [] := by
  rw [packWarning, truncated_eq_none.2 h]
  rfl

theorem packWarning_wide {x : Decode.WordFields} {loc : Option Nat} (h : ¬ FieldsFit a x) :
    ∃ f : Nat, packWarning a x loc = [⟨.W8, .value f, sourceLoc loc⟩] ∧ 2 ^ Config.fw a ≤ f := by
  obtain ⟨f, hf⟩ := Option.ne_none_iff_exists'.1 (mt truncated_eq_none.1 h)
  exact ⟨f, by rw [packWarning, hf]; rfl, le_of_truncated hf⟩

theorem emitInsn_value {v0 v1 v2 : Nat} (h0 : r.f0 = .value v0) (h1 : r.f1 = .value v1) (h2 : r.f2 = .value v2) :
    emitInsn a r s = { s with
      warnings := s.warnings ++ packWarning a ⟨r.opcode, v0, v1, v2⟩ r.loc
      out := s.out ++ Decode.wordBytes s.cfg.outFmt (Decode.pack a ⟨r.opcode, v0, v1, v2⟩) } := by
  simp only [emitInsn, h0, h1, h2, packWarning]
  cases Decode.truncated a ⟨r.opcode, v0, v1, v2⟩ with
  | none => simp [State.emit]
  | some f => simp [State.emit, State.warn]

/-- A record's emission leads to the next record or to a fatal error. -/
theorem emitInsn_task (a : Arch) (r : InsnRec) (s : State) :
    (emitInsn a r s).task = s.task ∨ (emitInsn a r s).fatal ≠ none := by
  unfold emitInsn
  split
  · left
    dsimp only
    split <;> rfl
  · exact .inr nofun

/-! ### The completed output -/

/-- An emission completes only past the last record (46_emission.md rule R293). -/
theorem records_end_of_completed (h : Completed (emitWordStep k s)) : s.records[k]? = none := by
  obtain ⟨hidle, -, hfatal⟩ := h
  cases hr : s.records[k]? with
  | none => rfl
  | some rec =>
    cases rec with
    | label n ad l => simp [emitWordStep_label hr] at hidle
    | insn r =>
      cases ha : s.cfg.arch with
      | none => simp [emitWordStep, hr, ha, State.raiseInternal, State.raise] at hfatal
      | some a =>
        rw [emitWordStep_insn ha hr] at hidle hfatal
        obtain htask | hstop := emitInsn_task a r { s with task := .emitWord (k + 1) }
        · exact absurd (htask.symm.trans hidle) nofun
        · exact absurd hfatal hstop

end Step

/-- The addresses of the instruction records, in record order. -/
def insnAddresses (rs : List Record) : List Nat := rs.filterMap fun r => if isInsn r then recordAddr r else none

theorem insnAddresses_take_succ {rs : List Record} {k : Nat} {r : Record} (hr : rs[k]? = some r) :
    insnAddresses (rs.take (k + 1)) =
      insnAddresses (rs.take k) ++ (if isInsn r then recordAddr r else none).toList := by
  rw [List.take_add_one, hr, insnAddresses, List.filterMap_append]
  cases hx : (if isInsn r then recordAddr r else none) <;> simp [insnAddresses, hx]

/-- The instructions among the first `k` addressed records stand at the addresses from 0 on (45_resolution.md rule R264). -/
theorem insnAddresses_take {rs : List Record} (h : Addressed rs rs.length) {k : Nat} (hk : k ≤ rs.length) :
    insnAddresses (rs.take k) = List.range (insnCount (rs.take k)) := by
  induction k with
  | zero => rfl
  | succ k ih =>
    have hr : rs[k]? = some rs[k] := List.getElem?_eq_getElem hk
    rw [insnAddresses_take_succ hr, insnCount_take_succ hr, ih (Nat.le_of_succ_le hk)]
    cases hi : isInsn rs[k] with
    | false => simp
    | true => simp [h k _ hk hr, List.range_succ]

/-! ### The obligations -/

/-- Settles O44: the three outcomes of the step at record `k`. -/
theorem emissionAppendsOneWordPerInstruction : Obligations.EmissionAppendsOneWordPerInstruction := by
  intro s a k ht ha
  refine ⟨fun r v0 v1 v2 hr h0 h1 h2 => ?_, fun n ad l hr => ?_, fun hr => ?_⟩
  · rw [step_emitWord ht, emitWordStep_insn ha hr, emitInsn_value h0 h1 h2,
      ← fieldsFit_iff (x := ⟨r.opcode, v0, v1, v2⟩)]
    refine ⟨_, rfl, rfl, rfl, rfl, rfl, rfl, fun hfit => ?_, fun hwide => ?_⟩
    · simp [packWarning_fits hfit]
    · obtain ⟨f, hf, hle⟩ := packWarning_wide (loc := r.loc) hwide
      exact ⟨f, congrArg (s.warnings ++ ·) hf, by exact_mod_cast hle⟩
  · rw [step_emitWord ht, emitWordStep_label hr]
  · rw [step_emitWord ht, emitWordStep_end hr, State.complete]

/-- Settles O45: past the last record, what holds of an emission under way speaks of all records. -/
theorem completedMicrocodeLength : Obligations.CompletedMicrocodeLength := by
  intro s t k hc ht h hdone
  have hstage := hc.stage
  simp only [StageConsistent, ht] at hstage
  obtain ⟨hout, -, hk, haddressed, hcount, -⟩ := hstage
  obtain rfl : emitWordStep k s = t := by simpa [step_emitWord ht] using h
  have hend := records_end_of_completed hdone
  obtain rfl : k = s.records.length := Nat.le_antisymm hk (List.getElem?_eq_none_iff.1 hend)
  rw [emitWordStep_end hend]
  have haddresses := insnAddresses_take haddressed (Nat.le_refl _)
  rw [List.take_length] at hout haddresses
  exact ⟨hcount ▸ hout, hcount ▸ haddresses⟩

/-- Settles O43: the ceiling warning and the header, under the parameters' defaults for both. -/
theorem emissionBeginsWithTheHeader : Obligations.EmissionBeginsWithTheHeader := by
  intro s a limit15 ht ha hp
  have hheader (n : Nat) : header s.cfg.params s.cfg.params.hdrTypeUcode n = [0x75, 0x01, 0, 0] ++ Decode.be32 n := by
    rw [hp]
    rfl
  have hstep := (step_emitHead ht).trans (congrArg _ (emitHeadStep_eq ha))
  rw [ucodeHead, hheader, be32_eq] at hstep
  cases a with
  | rev5 => exact hstep
  | rev15 =>
    have hlimit : s.cfg.params.maxInsns .rev15 = limit15 := by
      rw [hp]
      rfl
    rw [hlimit] at hstep
    exact hstep

end Sys2Proof.Laws.Emission

/-! The layout of a word and its bytes: the word as the sum of its packed fields, the fields read back, the width check, and
the three byte orders (20_memory.md rule R64, 46_emission.md rule R290, 47_decoder.md rules R311 to R313). -/

namespace Sys2Proof.Laws.WordLayout

open Sys2Proof Sys2Proof.Machine Sys2Proof.Laws.Encoding

/-! ### Packing and unpacking -/

/-- Four fields side by side, the lower three `n` bits wide, are their sum at their places. -/
theorem or_shiftLeft_eq_add {n c f0 f1 f2 : Nat} (h0 : f0 < 2 ^ n) (h1 : f1 < 2 ^ n) (h2 : f2 < 2 ^ n) :
    c <<< (3 * n) ||| f0 <<< (2 * n) ||| f1 <<< n ||| f2 =
      c * 2 ^ (3 * n) + f0 * 2 ^ (2 * n) + f1 * 2 ^ n + f2 := by
  have hshift (k f : Nat) : f <<< (k + n) = (f <<< k) <<< n := Nat.shiftLeft_add f k n
  have hnest : c <<< (3 * n) ||| f0 <<< (2 * n) ||| f1 <<< n ||| f2 =
      ((c <<< n ||| f0) <<< n ||| f1) <<< n ||| f2 := by
    simp only [Nat.shiftLeft_or_distrib, show 3 * n = n + n + n by ring, show 2 * n = n + n by ring, hshift]
  rw [hnest, ← Nat.shiftLeft_add_eq_or_of_lt h0, ← Nat.shiftLeft_add_eq_or_of_lt h1,
    ← Nat.shiftLeft_add_eq_or_of_lt h2]
  simp only [Nat.shiftLeft_eq]
  ring

theorem shOpc_eq (a : Arch) : Config.shOpc a = 3 * Config.fw a := by cases a <;> rfl

theorem shOp0_eq (a : Arch) : Config.shOp0 a = 2 * Config.fw a := by cases a <;> rfl

theorem shOp1_eq (a : Arch) : Config.shOp1 a = Config.fw a := by cases a <;> rfl

/-- A value of at most 13 bits shifted inside a word loses no bit. -/
theorem toNat_shiftLeft_of_lt {v : Word} {sh : Nat} (hv : v.toNat < 2 ^ 13) (hsh : sh ≤ 51) :
    (v <<< sh).toNat = v.toNat <<< sh := by
  rw [BitVec.toNat_shiftLeft, Nat.mod_eq_of_lt]
  calc v.toNat <<< sh < 2 ^ 13 * 2 ^ sh := by
        rw [Nat.shiftLeft_eq]; exact Nat.mul_lt_mul_of_pos_right hv (Nat.two_pow_pos sh)
    _ = 2 ^ (13 + sh) := (Nat.pow_add 2 13 sh).symm
    _ ≤ 2 ^ 64 := Nat.pow_le_pow_right Nat.two_pos (by omega)

/-- A packed word is the sum of its opcode and its three cut fields at their places (46_emission.md rule R290). -/
theorem toNat_pack (a : Arch) (x : Decode.WordFields) :
    (Decode.pack a x).toNat =
      x.opc.toNat * 2 ^ (3 * Config.fw a) + x.f0 % 2 ^ Config.fw a * 2 ^ (2 * Config.fw a) +
        x.f1 % 2 ^ Config.fw a * 2 ^ Config.fw a + x.f2 % 2 ^ Config.fw a := by
  have hfw : Config.fw a ≤ 13 := by cases a <;> decide
  have hcut (f : Nat) : f % 2 ^ Config.fw a < 2 ^ Config.fw a := Nat.mod_lt _ (Nat.two_pow_pos _)
  have hfield (f : Nat) : f % 2 ^ Config.fw a < 2 ^ 13 := (hcut f).trans_le (Nat.pow_le_pow_right Nat.two_pos hfw)
  have hopc : (x.opc.setWidth 64).toNat = x.opc.toNat := BitVec.toNat_setWidth_of_le (by decide)
  have hword (f : Nat) : (BitVec.ofNat 64 (f % 2 ^ Config.fw a)).toNat = f % 2 ^ Config.fw a := by
    rw [BitVec.toNat_ofNat, Nat.mod_eq_of_lt ((hfield f).trans (by decide))]
  have hplace {v : Word} {f sh : Nat} (hv : v.toNat = f) (hf : f < 2 ^ 13) (hsh : sh ≤ 51) :
      (v <<< sh).toNat = f <<< sh := by
    subst hv; exact toNat_shiftLeft_of_lt hf hsh
  rw [← or_shiftLeft_eq_add (hcut _) (hcut _) (hcut _), Decode.pack, shOpc_eq, shOp0_eq, shOp1_eq]
  simp only [BitVec.toNat_or]
  rw [hplace hopc (by omega) (by omega), hplace (hword _) (hfield _) (by omega),
    hplace (hword _) (hfield _) (by omega), hplace (hword _) (hfield _) (by omega)]
  rfl

theorem toNat_pack_lt (a : Arch) (x : Decode.WordFields) : (Decode.pack a x).toNat < 2 ^ Config.wordUsed a := by
  rw [toNat_pack]
  have := x.opc.isLt
  cases a <;> simp only [Config.fw, Config.wordUsed] <;> omega

/-- The width check is a bound on the word (47_decoder.md rule R312). -/
theorem fitsArch_iff (a : Arch) (w : Word) : Decode.fitsArch a w = true ↔ w.toNat < 2 ^ Config.wordUsed a := by
  rw [Decode.fitsArch, beq_iff_eq, ← BitVec.toNat_inj, BitVec.toNat_ushiftRight, Nat.shiftRight_eq_div_pow]
  exact Nat.div_eq_zero_iff_lt (Nat.two_pow_pos _)

theorem fitsArch_pack (a : Arch) (x : Decode.WordFields) : Decode.fitsArch a (Decode.pack a x) = true :=
  (fitsArch_iff a _).2 (toNat_pack_lt a x)

/-- The opcode and the fields of a word as its digits (47_decoder.md rule R313). -/
theorem unpack_eq (a : Arch) (w : Word) :
    Decode.unpack a w = ⟨BitVec.ofNat 12 (w.toNat / 2 ^ (3 * Config.fw a)),
      w.toNat / 2 ^ (2 * Config.fw a) % 2 ^ Config.fw a,
      w.toNat / 2 ^ Config.fw a % 2 ^ Config.fw a, w.toNat % 2 ^ Config.fw a⟩ := by
  have hopc : (w >>> (3 * Config.fw a)).setWidth 12 = BitVec.ofNat 12 (w.toNat / 2 ^ (3 * Config.fw a)) :=
    BitVec.eq_of_toNat_eq (by simp [Nat.shiftRight_eq_div_pow])
  rw [Decode.unpack, shOpc_eq, shOp0_eq, shOp1_eq, hopc]
  simp only [BitVec.toNat_ushiftRight, Nat.shiftRight_eq_div_pow]

/-- Unpacking gives back the opcode and the cut fields of a packed word. -/
theorem unpack_pack (a : Arch) (x : Decode.WordFields) :
    Decode.unpack a (Decode.pack a x) =
      ⟨x.opc, x.f0 % 2 ^ Config.fw a, x.f1 % 2 ^ Config.fw a, x.f2 % 2 ^ Config.fw a⟩ := by
  have hopc := x.opc.isLt
  rw [unpack_eq, toNat_pack]
  refine Decode.WordFields.mk.injEq .. ▸ ⟨BitVec.eq_of_toNat_eq ?_, ?_, ?_, ?_⟩
  all_goals cases a <;> simp only [Config.fw, BitVec.toNat_ofNat] <;> omega

/-- Settles O7: the digits of a word, and those of a packed one. -/
theorem packedWordHoldsItsFields : Obligations.PackedWordHoldsItsFields := by
  have hopc (w : Word) (n : Nat) : BitVec.ofNat 12 (w.toNat / 2 ^ n) = w.extractLsb' n 12 :=
    BitVec.eq_of_toNat_eq (by simp [Nat.shiftRight_eq_div_pow])
  have hfield (w : Word) (n k : Nat) : w.toNat / 2 ^ n % 2 ^ k = (w.extractLsb' n k).toNat := by
    simp [Nat.shiftRight_eq_div_pow]
  refine ⟨fun w => ⟨?rev5, ?rev15⟩, fun a opc f0 f1 f2 => ⟨?_, unpack_pack a _, toNat_pack_lt a _⟩⟩
  case rev5 => rw [unpack_eq, hopc, hfield, hfield, ← hfield w 0]; simp [Config.fw]
  case rev15 => rw [unpack_eq, hopc, hfield, hfield, ← hfield w 0]; simp [Config.fw]
  · rw [toNat_pack]
    cases a <;> rfl

/-! ### Bytes -/

/-- The bytes of the low half of a word. -/
theorem byteAt_lo (w : Word) {n : Nat} (hn : n ≤ 24) : Decode.byteAt (Decode.lo w) n = w.extractLsb' n 8 := by
  refine BitVec.eq_of_getLsbD_eq fun i hi => ?_
  have hlow : i + n < 32 := by omega
  simp only [Decode.byteAt, Decode.lo, BitVec.getLsbD_ofNat, BitVec.getLsbD_extractLsb', Nat.testBit_div_two_pow,
    Nat.testBit_mod_two_pow, hlow, decide_true, Bool.true_and, BitVec.testBit_toNat, Nat.add_comm n i]

/-- The bytes of the high half of a word. -/
theorem byteAt_hi (w : Word) (n : Nat) : Decode.byteAt (Decode.hi w) n = w.extractLsb' (32 + n) 8 := by
  refine BitVec.eq_of_toNat_eq ?_
  simp [Decode.byteAt, Decode.hi, Nat.shiftRight_eq_div_pow, Nat.div_div_eq_div_mul, Nat.pow_add]

theorem readBe_be32 (v : Nat) : Decode.readBe (Decode.be32 v) = v % 2 ^ 32 := by
  simp only [Decode.readBe, Decode.be32, Decode.byteAt, List.foldl_cons, List.foldl_nil, BitVec.toNat_ofNat]
  omega

theorem readLe_le32 (v : Nat) : Decode.readLe (Decode.le32 v) = v % 2 ^ 32 := readBe_be32 v

/-- A word is the sum of its two halves. -/
theorem ofNat_hi_lo (w : Word) :
    BitVec.ofNat 64 (Decode.hi w % 2 ^ 32 * 2 ^ 32 + Decode.lo w % 2 ^ 32) = w := by
  have := w.isLt
  refine BitVec.eq_of_toNat_eq ?_
  simp only [Decode.hi, Decode.lo, BitVec.toNat_ofNat]
  omega

/-- Reading the bytes of a word gives it back (47_decoder.md rule R311). -/
theorem wordOfBytes_wordBytes (fmt : OutFmt) (w : Word) : Decode.wordOfBytes fmt (Decode.wordBytes fmt w) = w := by
  have hbe : BitVec.ofNat 64 (Decode.readBe (Decode.be32 (Decode.hi w)) * 2 ^ 32 +
      Decode.readBe (Decode.be32 (Decode.lo w))) = w := by
    rw [readBe_be32, readBe_be32, ofNat_hi_lo]
  have hle : BitVec.ofNat 64 (Decode.readLe (Decode.le32 (Decode.hi w)) * 2 ^ 32 +
      Decode.readLe (Decode.le32 (Decode.lo w))) = w := by
    rw [readLe_le32, readLe_le32, ofNat_hi_lo]
  cases fmt with
  | b43 => exact hbe
  | rawLe32 => exact hle
  | rawBe32 => exact hbe

/-- Settles O8: each byte is a piece of one half, and the halves read back make the word. -/
theorem wordBytesReadBack : Obligations.WordBytesReadBack := by
  intro w b
  refine ⟨?_, ?_, rfl, fun fmt => wordOfBytes_wordBytes fmt w⟩
  · simp [Decode.wordBytes, Decode.le32, byteAt_lo, byteAt_hi, b]
  · simp [Decode.wordBytes, Decode.be32, byteAt_lo, byteAt_hi, b]

end Sys2Proof.Laws.WordLayout

/-! Decoding after encoding and encoding after decoding: operand fields, auxiliary numbers in an opcode, whole words
(30_encoding.md rules R84 to R94, R100, R101; 47_decoder.md rules R315 to R320, R332, R333). -/

namespace Sys2Proof.Laws.RoundTrip

open Sys2Proof Sys2Proof.Machine Sys2Proof.Safety Sys2Proof.Claims Sys2Proof.WellFormed Sys2Proof.Decode
  Sys2Proof.Laws.Operands Sys2Proof.Laws.Generation Sys2Proof.Laws.Encoding Sys2Proof.Laws.Acceptance
  Sys2Proof.Laws.Alu Sys2Proof.Laws.WordLayout

/-! ### Operand fields with the default layout -/

section Fields

variable {a : Arch} {n o r : Nat}

/-- A tag whose low `k` bits are clear is put over a payload of `k` bits by adding it. -/
theorem tag_or_eq_add (tag k : Nat) {v : Nat} (hv : v < 2 ^ k) : tag * 2 ^ k ||| v = tag * 2 ^ k + v := by
  rw [Nat.mul_comm]
  exact (Nat.two_pow_add_eq_or_of_lt hv tag).symm

theorem operandField_imm (p : Params) (a : Arch) (v : Imm) :
    operandField p a (.imm v) = match a with
      | .rev5 => 0xC00 + v.toNat % 1024
      | .rev15 => 0x1800 + v.toNat % 2048 := by
  have hfield : operandField p a (.imm v) = Config.immTag a ||| v.toNat % 2 ^ Config.immW a := by
    rw [← BitVec.toNat_setWidth]; rfl
  rw [hfield]
  have hlt := Nat.mod_lt v.toNat (Nat.two_pow_pos (Config.immW a))
  cases a with
  | rev5 => exact tag_or_eq_add 3 10 hlt
  | rev15 => exact tag_or_eq_add 3 11 hlt

theorem operandField_gpr (h : n < 2 ^ Config.gprW a) :
    operandField Params.default a (.reg .gpr n) = match a with
      | .rev5 => 0xBC0 + n
      | .rev15 => 0x1780 + n := by
  cases a with
  | rev5 => exact tag_or_eq_add 0x2F 6 h
  | rev15 => exact tag_or_eq_add 0x2F 7 h

theorem operandField_spr (h : n < 2 ^ Config.sprW a) :
    operandField Params.default a (.reg .spr n) = match a with
      | .rev5 => 0x800 + n
      | .rev15 => 0x1000 + n := by
  cases a with
  | rev5 => exact tag_or_eq_add 4 9 h
  | rev15 => exact tag_or_eq_add 4 10 h

theorem operandField_indirect (ho : o < 64) (hr : r ≤ 6) :
    operandField Params.default a (.indirect o r) = match a with
      | .rev5 => 0xA00 + r * 64 + o
      | .rev15 => 0x1400 + r * 128 + o := by
  have hnest (k : Nat) (hk : 64 ≤ 2 ^ k) :
      5 * 2 ^ (k + 3) ||| r <<< k ||| o % 64 = 5 * 2 ^ (k + 3) + r * 2 ^ k + o := by
    have hlow : r * 2 ^ k < 2 ^ (k + 3) := by
      rw [Nat.pow_add, Nat.mul_comm]
      exact Nat.mul_lt_mul_of_pos_left (by omega) (Nat.two_pow_pos k)
    rw [Nat.shiftLeft_eq, Nat.mod_eq_of_lt ho, tag_or_eq_add 5 _ hlow,
      show 5 * 2 ^ (k + 3) + r * 2 ^ k = (40 + r) * 2 ^ k by ring, tag_or_eq_add _ k (by omega)]
  cases a with
  | rev5 => exact hnest 6 (by decide)
  | rev15 => exact hnest 7 (by decide)

/-- The fields that stay raw in the decoder's spelling: memory-indirect ones on Rev15 with the reserved bit set. -/
theorem isReservedIndirect_iff {v : Nat} : isReservedIndirect Params.default a v = true ↔
    a = .rev15 ∧ 0x1400 ≤ v ∧ v < 0x1780 ∧ v / 64 % 2 = 1 := by
  cases a with
  | rev5 => simp [isReservedIndirect, Params.default, Params.layout, Layout.rev5]
  | rev15 =>
    by_cases hv : v < 8192
    · obtain ⟨himm, hgpr, hind, hspr, hrsvd⟩ := classTests_rev15 hv
      have hfit : v < 2 ^ Config.fw .rev15 := hv
      simp only [isReservedIndirect, Params.default, Params.layout, Layout.rev15, hfit, decide_true, Bool.true_and,
        Bool.and_eq_true, bne_iff_ne, beq_iff_eq, ne_eq, himm, hgpr, hind, hspr, hrsvd, true_and]
      omega
    · refine iff_of_false (fun h => hv ?_) (by omega)
      simp only [isReservedIndirect, Bool.and_eq_true, decide_eq_true_eq] at h
      exact h.1.1.1.1.1

theorem canonOp_indirect : canonOp Params.default a (.indirect o r) = true ↔ o < 64 ∧ r ≤ 6 := by
  simp only [canonOp, Bool.and_eq_true, decide_eq_true_eq]
  cases a <;> rfl

/-- The field of an operand in the decoder's spelling fits its slot. -/
theorem operandField_lt {op : Operand} (h : canonOp Params.default a op = true) :
    operandField Params.default a op < 2 ^ Config.fw a := by
  cases op with
  | imm v =>
    rw [operandField_imm]
    cases a <;> simp only [Config.fw] <;> omega
  | reg k n =>
    cases k with
    | offr => cases h
    | gpr =>
      have hn : n < 2 ^ Config.gprW a := of_decide_eq_true h
      rw [operandField_gpr hn]
      cases a <;> simp only [Config.fw, Config.gprW] at hn ⊢ <;> omega
    | spr =>
      have hn : n < 2 ^ Config.sprW a := of_decide_eq_true h
      rw [operandField_spr hn]
      cases a <;> simp only [Config.fw, Config.sprW] at hn ⊢ <;> omega
  | direct o =>
    exact (Nat.mod_lt o (Nat.two_pow_pos _)).trans_le
      (Nat.pow_le_pow_right Nat.two_pos (by cases a <;> decide : Config.dirW a ≤ Config.fw a))
  | indirect o r =>
    obtain ⟨ho, hr⟩ := canonOp_indirect.1 h
    rw [operandField_indirect ho hr]
    cases a <;> simp only [Config.fw] <;> omega
  | raw v =>
    obtain ⟨rfl, -, hv, -⟩ := isReservedIndirect_iff.1 h
    exact hv.trans (by decide)
  | labelRef | address | linkReg | number => cases h

/-- An operand in the decoder's spelling is read back from its field (47_decoder.md rule R318). -/
theorem decOp_operandField {op : Operand} (h : canonOp Params.default a op = true) :
    decOp Params.default a (operandField Params.default a op) = op := by
  rw [fieldClassesPartitionTheValues a _ (operandField_lt h)]
  cases op with
  | imm v =>
    have hsext := sext_payload h
    rw [BitVec.toNat_setWidth] at hsext
    cases a with
    | rev5 =>
      simp only [operandField_imm]
      rw [if_pos (by omega), show (0xC00 + v.toNat % 1024) % 1024 = v.toNat % 2 ^ 10 by omega]
      exact congrArg _ hsext
    | rev15 =>
      simp only [operandField_imm]
      rw [if_pos (by omega), show (0x1800 + v.toNat % 2048) % 2048 = v.toNat % 2 ^ 11 by omega]
      exact congrArg _ hsext
  | reg k n =>
    cases k with
    | offr => cases h
    | gpr =>
      have hn : n < 2 ^ Config.gprW a := of_decide_eq_true h
      rw [operandField_gpr hn]
      cases a <;> simp only [Config.gprW] at hn <;> grind
    | spr =>
      have hn : n < 2 ^ Config.sprW a := of_decide_eq_true h
      rw [operandField_spr hn]
      cases a <;> simp only [Config.sprW] at hn <;> grind
  | direct o =>
    have ho : o < 2 ^ Config.dirW a := of_decide_eq_true h
    rw [show operandField Params.default a (.direct o) = o from Nat.mod_eq_of_lt ho]
    cases a <;> simp only [Config.dirW] at ho <;> grind
  | indirect o r =>
    obtain ⟨ho, hr⟩ := canonOp_indirect.1 h
    rw [operandField_indirect ho hr]
    cases a <;> grind
  | raw v =>
    obtain ⟨rfl, hlo, hhi, hbit⟩ := isReservedIndirect_iff.1 h
    have hv : operandField Params.default .rev15 (.raw v) = v := rfl
    grind
  | labelRef | address | linkReg | number => cases h

theorem toNat_sext_mod {w : Nat} (hw : w ≤ 32) (f : Nat) : (Flags.sext w f).toNat % 2 ^ w = f % 2 ^ w := by
  have hcut : (Flags.sext w f).setWidth w = BitVec.ofNat w f := by
    ext i hi
    simp [Flags.sext, ← BitVec.getLsbD_eq_getElem, BitVec.getLsbD_signExtend, hi, hi.trans_le hw]
  rw [← BitVec.toNat_setWidth, hcut, BitVec.toNat_ofNat]

/-- A field that fits its slot is the field of the operand it decodes to. -/
theorem operandField_decOp {f : Nat} (hf : f < 2 ^ Config.fw a) :
    operandField Params.default a (decOp Params.default a f) = f := by
  rw [fieldClassesPartitionTheValues a f hf]
  cases a with
  | rev5 =>
    have hfit : f < 4096 := hf
    have hsext : (Flags.sext 10 (f % 1024)).toNat % 1024 = f % 1024 % 1024 := toNat_sext_mod (by decide) _
    dsimp only
    split_ifs
    · rw [operandField_imm]; dsimp only; omega
    · rw [operandField_gpr (by simp only [Config.gprW]; omega)]; dsimp only; omega
    · rw [operandField_indirect (by omega) (by omega)]; dsimp only; omega
    · rw [operandField_spr (by simp only [Config.sprW]; omega)]; dsimp only; omega
    · exact Nat.mod_eq_of_lt (by simp only [Config.dirW]; omega)
  | rev15 =>
    have hfit : f < 8192 := hf
    have hsext : (Flags.sext 11 (f % 2048)).toNat % 2048 = f % 2048 % 2048 := toNat_sext_mod (by decide) _
    dsimp only
    split_ifs
    · rw [operandField_imm]; dsimp only; omega
    · rw [operandField_gpr (by simp only [Config.gprW]; omega)]; dsimp only; omega
    · rfl
    · rw [operandField_indirect (by omega) (by omega)]; dsimp only; omega
    · rw [operandField_spr (by simp only [Config.sprW]; omega)]; dsimp only; omega
    · exact Nat.mod_eq_of_lt (by simp only [Config.dirW]; omega)

/-- The field of a link-register operand in the decoder's spelling fits its slot, and decodes to that operand
(43_call_ret_nap.md rule R230). -/
theorem decLr_operandField {op : Operand} (h : canonLr Params.default a op = true) :
    operandField Params.default a op < 2 ^ Config.fw a ∧
      decLr Params.default (operandField Params.default a op) = op := by
  cases op with
  | linkReg n =>
    have hall : ∀ n < 4, operandField Params.default a (.linkReg n) < 2 ^ Config.fw a ∧
        decLr Params.default (operandField Params.default a (.linkReg n)) = .linkReg n := by
      cases a <;> decide
    exact hall n (of_decide_eq_true h)
  | raw v =>
    obtain ⟨hv, hnot⟩ : v < 2 ^ Config.fw a ∧ v ∉ Params.default.lrFields := by simpa [canonLr] using h
    exact ⟨hv, if_neg hnot⟩
  | _ => cases h

theorem operandField_decLr (f : Nat) : operandField Params.default a (decLr Params.default f) = f := by
  unfold decLr
  split
  · rename_i hmem
    have hlt := List.idxOf_lt_length_of_mem hmem
    simp [operandField, List.getD_eq_getElem?_getD, hlt]
  · rfl

/-- A field that waits for nothing: the address of a jump target. -/
theorem operandField_target {p : Params} {op : Operand} (h : canonTarget a op = true) :
    operandField p a op < 2 ^ Config.fw a ∧ Operand.address (operandField p a op) = op := by
  cases op with
  | address t => exact ⟨of_decide_eq_true h, rfl⟩
  | _ => cases h

end Fields

/-! ### Extended opcodes -/

theorem canonAux_iff {max : Nat} {op : Operand} : canonAux max op = true ↔ ∃ n ≤ max, op = .number (n : Nat) := by
  constructor
  · intro h
    cases op with
    | number v =>
      obtain ⟨hlo, hhi⟩ : 0 ≤ v ∧ v ≤ max := by simpa [canonAux] using h
      obtain ⟨n, rfl⟩ := Int.eq_ofNat_of_zero_le hlo
      exact ⟨n, by exact_mod_cast hhi, rfl⟩
    | _ => cases h
  · rintro ⟨n, hn, rfl⟩
    simpa [canonAux] using hn

/-- The family and the two auxiliary numbers of a bit-field opcode (30_encoding.md rule R101). -/
theorem extOpcode_parts (fam : Family) {m s : Nat} (hm : m ≤ 15) (hs : s ≤ 15) :
    (extOpcode fam m s).extractLsb' 8 4 = fam ∧ ((extOpcode fam m s).toNat : Int) / 16 % 16 = m ∧
      ((extOpcode fam m s).toNat : Int) % 16 = s := by
  have hfam := fam.isLt
  have hopc : (extOpcode fam m s).toNat = fam.toNat * 256 + m * 16 + s := by
    rw [extOpcode_eq hm hs, BitVec.toNat_ofNat, Nat.mod_eq_of_lt (by omega)]
  refine ⟨BitVec.eq_of_toNat_eq ?_, by omega, by omega⟩
  rw [family_toNat]
  omega

/-- The family and the condition number of an external-condition opcode (30_encoding.md rule R101). -/
theorem condOpcode_parts (fam : Family) {c : Nat} (hc : c ≤ 255) :
    (condOpcode fam c).extractLsb' 8 4 = fam ∧ ((condOpcode fam c).toNat : Int) % 256 = c := by
  have hfam := fam.isLt
  have hopc : (condOpcode fam c).toNat = fam.toNat * 256 + c := by
    rw [condOpcode_eq hc, BitVec.toNat_ofNat, Nat.mod_eq_of_lt (by omega)]
  refine ⟨BitVec.eq_of_toNat_eq ?_, by omega⟩
  rw [family_toNat]
  omega

/-- An opcode is made of its family and two auxiliary numbers. -/
theorem extOpcode_of_parts (opc : Opcode) :
    extOpcode (opc.extractLsb' 8 4) (opc.toNat / 16 % 16) (opc.toNat % 16) = opc := by
  have hlt := opc.isLt
  rw [extOpcode_eq (by omega) (by omega), family_toNat]
  refine BitVec.eq_of_toNat_eq ?_
  rw [BitVec.toNat_ofNat]
  omega

/-- An opcode is made of its family and a condition number. -/
theorem condOpcode_of_parts (opc : Opcode) : condOpcode (opc.extractLsb' 8 4) (opc.toNat % 256) = opc := by
  have hlt := opc.isLt
  rw [condOpcode_eq (by omega), family_toNat]
  refine BitVec.eq_of_toNat_eq ?_
  rw [BitVec.toNat_ofNat]
  omega

/-! ### Decoding the fields of an instruction -/

theorem lookup_eq_some_of_mem {α β : Type} [BEq α] [LawfulBEq α] {k : α} {v : β} {l : List (α × β)}
    (hn : (l.map Prod.fst).Nodup) (h : (k, v) ∈ l) : l.lookup k = some v := by
  induction l with
  | nil => cases h
  | cons row rows ih =>
    obtain ⟨hnot, hn⟩ := List.nodup_cons.1 hn
    obtain rfl | h := List.mem_cons.1 h
    · rw [List.lookup_cons_self]
    · have hne : (k == row.1) = false := beq_false_of_ne fun hk => hnot (hk ▸ List.mem_map_of_mem (f := Prod.fst) h)
      rw [List.lookup_cons, hne]
      exact ih hn h

theorem exactOpcodes_nodup : (Flags.exactOpcodes Params.default.opcodes).Nodup :=
  List.Nodup.of_map BitVec.toNat (by decide)

theorem extendedFamilies_nodup : (Flags.extendedFamilies Params.default.opcodes).Nodup := by decide

/-- The default exact opcodes lie below the default families. -/
theorem exactOpcodes_lt : ∀ opc ∈ Flags.exactOpcodes Params.default.opcodes, opc.toNat < 0x200 :=
  List.forall_mem_map.1 (by decide : ∀ n ∈ (Flags.exactOpcodes Params.default.opcodes).map BitVec.toNat, n < 0x200)

theorem le_of_isExtended {opc : Opcode} (h : Flags.isExtended Params.default.opcodes opc = true) :
    0x200 ≤ opc.toNat := by
  have hfamilies : ∀ f ∈ Flags.extendedFamilies Params.default.opcodes, 2 ≤ f.toNat := by decide
  have hfam := hfamilies _ (List.contains_iff_mem.1 h)
  rw [family_toNat] at hfam
  omega

section Decoding

variable {a : Arch} {typed : Bool} {i : Instr} {x : WordFields}

/-- A row of the exact table, its operands decoded from the fields of a word. -/
def ExactRow (a : Arch) (x : WordFields) (i : Instr) : Prop :=
  (x.opc, i) ∈ exactTable Params.default (decOp Params.default a x.f0) (decOp Params.default a x.f1)
    (decOp Params.default a x.f2) x

/-- A row of the family table, its operands decoded from the fields of a word. -/
def FamilyRow (a : Arch) (x : WordFields) (i : Instr) : Prop :=
  (x.opc.extractLsb' 8 4, i) ∈ familyTable Params.default.opcodes x.opc (decOp Params.default a x.f0)
    (decOp Params.default a x.f1) (decOp Params.default a x.f2) x.f2

/-- No two default opcodes or families are the same, and no exact opcode is in a family: the row of an opcode is what it
decodes to. -/
theorem decFields_of_familyRow (h : FamilyRow a x i) : decFields Params.default typed a x = i :=
  decFields_of_extended (lookup_eq_some_of_mem extendedFamilies_nodup h)

theorem decFields_of_exactRow (h : ExactRow a x i) : decFields Params.default typed a x = i := by
  have hmem : x.opc ∈ Flags.exactOpcodes Params.default.opcodes := by
    rw [← exactTable_keys]
    exact List.mem_map_of_mem (f := Prod.fst) h
  have hext : Flags.isExtended Params.default.opcodes x.opc = false :=
    Bool.eq_false_iff.2 fun he => absurd (le_of_isExtended he) (Nat.not_le.2 (exactOpcodes_lt _ hmem))
  exact decFields_of_exact (decExtended_none.2 hext) (lookup_eq_some_of_mem exactOpcodes_nodup h)

theorem decFields_of_not_named (h : Flags.isNamedOpcode Params.default.opcodes x.opc = false) :
    decFields Params.default typed a x = decFallback typed x.opc (decOp Params.default a x.f0)
      (decOp Params.default a x.f1) (decOp Params.default a x.f2) x := by
  obtain ⟨hext, hexact⟩ := Bool.or_eq_false_iff.1 h
  have hnone := decExact_none (p := Params.default) (opc := x.opc) (a := decOp Params.default a x.f0)
    (b := decOp Params.default a x.f1) (d := decOp Params.default a x.f2) (x := x)
  simp only [decFields, decExtended_none.2 hext, hnone.2 (by simpa using hexact)]

theorem canonRaw_untyped {p : Params} {op : Operand} (h : canonRaw p a false op = true) :
    ∃ v, op = .raw v ∧ v < 2 ^ Config.fw a := by
  cases op with
  | raw v => exact ⟨v, rfl, of_decide_eq_true h⟩
  | _ => cases h

/-- The fields of an instruction in the decoder's spelling classify as that instruction. -/
theorem decFields_encFields (h : i.canonical Params.default typed a = true) :
    decFields Params.default typed a (encFields Params.default a i) = i := by
  cases i with
  | mov src dst | jmp t => cases h
  | mul x y d | add x y d | addDot x y d | addc x y d | addcDot x y d | sub x y d | subDot x y d | subc x y d
  | subcDot x y d | sra x y d | or x y d | and x y d | xor x y d | sr x y d | sl x y d | rl x y d | rr x y d
  | nand x y d =>
    simp only [Instr.canonical, Bool.and_eq_true] at h
    obtain ⟨⟨hx, hy⟩, hd⟩ := h
    refine decFields_of_exactRow ?_
    simp [ExactRow, exactTable, encFields, decOp_operandField, hx, hy, hd]
  | tkiph x d | tkiphs x d | tkipl x d | tkipls x d =>
    simp only [Instr.canonical, Bool.and_eq_true] at h
    obtain ⟨hx, hd⟩ := h
    refine decFields_of_exactRow ?_
    simp [ExactRow, exactTable, encFields, decOp_operandField, hx, hd]
  | js x y t | jns x y t | je x y t | jne x y t | jls x y t | jges x y t | jgs x y t | jles x y t | jdn x y t
  | jdpz x y t | jdp x y t | jdnz x y t | jl x y t | jge x y t | jg x y t | jle x y t | jand x y t | jnand x y t =>
    simp only [Instr.canonical, Bool.and_eq_true] at h
    obtain ⟨⟨hx, hy⟩, ht⟩ := h
    refine decFields_of_exactRow ?_
    simp [ExactRow, exactTable, encFields, decOp_operandField, operandField_target, hx, hy, ht]
  | call lr t =>
    simp only [Instr.canonical, Bool.and_eq_true] at h
    obtain ⟨hlr, ht⟩ := h
    refine decFields_of_exactRow ?_
    simp [ExactRow, exactTable, encFields, decLr_operandField, operandField_target, hlr, ht]
  | calls t =>
    simp only [Instr.canonical] at h
    refine decFields_of_exactRow ?_
    simp [ExactRow, exactTable, encFields, operandField_target, h]
  | ret x y z =>
    simp only [Instr.canonical, Bool.and_eq_true] at h
    obtain ⟨⟨hx, hy⟩, hz⟩ := h
    refine decFields_of_exactRow ?_
    simp [ExactRow, exactTable, encFields, decLr_operandField, hx, hy, hz]
  | rets | nap => exact decFields_of_exactRow (by simp [ExactRow, exactTable, encFields])
  | srx m n x y d | orx m n x y d =>
    simp only [Instr.canonical, Bool.and_eq_true, canonAux_iff] at h
    obtain ⟨⟨⟨⟨⟨m, hm, rfl⟩, ⟨n, hn, rfl⟩⟩, hx⟩, hy⟩, hd⟩ := h
    have hparts (fam : Family) := extOpcode_parts fam hm hn
    refine decFields_of_familyRow ?_
    simp only [FamilyRow, familyTable, encFields, auxValue, Int.toNat_natCast, hparts, decOp_operandField hx,
      decOp_operandField hy, decOp_operandField hd]
    simp
  | jzx m n x y t | jnzx m n x y t =>
    simp only [Instr.canonical, Bool.and_eq_true, canonAux_iff] at h
    obtain ⟨⟨⟨⟨⟨m, hm, rfl⟩, ⟨n, hn, rfl⟩⟩, hx⟩, hy⟩, ht⟩ := h
    have hparts (fam : Family) := extOpcode_parts fam hm hn
    refine decFields_of_familyRow ?_
    simp only [FamilyRow, familyTable, encFields, auxValue, Int.toNat_natCast, hparts, decOp_operandField hx,
      decOp_operandField hy, operandField_target ht]
    simp
  | jext c x y t | jnext c x y t =>
    simp only [Instr.canonical, Bool.and_eq_true, canonAux_iff] at h
    obtain ⟨⟨⟨⟨c, hc, rfl⟩, hx⟩, hy⟩, ht⟩ := h
    have hparts (fam : Family) := condOpcode_parts fam hc
    refine decFields_of_familyRow ?_
    simp only [FamilyRow, familyTable, encFields, auxValue, Int.toNat_natCast, hparts, decOp_operandField hx,
      decOp_operandField hy, operandField_target ht]
    simp
  | raw n x y z =>
    simp only [Instr.canonical, Bool.and_eq_true, Bool.not_eq_true', decide_eq_true_eq] at h
    obtain ⟨⟨⟨⟨hn, hnamed⟩, hx⟩, hy⟩, hz⟩ := h
    rw [decFields_of_not_named (x := encFields Params.default a (.raw n x y z)) hnamed]
    have hopc : (BitVec.ofNat 12 n).toNat = n := by rw [BitVec.toNat_ofNat, Nat.mod_eq_of_lt (by omega)]
    cases typed with
    | false =>
      obtain ⟨u, rfl, -⟩ := canonRaw_untyped hx
      obtain ⟨v, rfl, -⟩ := canonRaw_untyped hy
      obtain ⟨w, rfl, -⟩ := canonRaw_untyped hz
      simp [decFallback, encFields, hopc, operandField]
    | true =>
      simp only [canonRaw, if_true] at hx hy hz
      simp [decFallback, encFields, hopc, decOp_operandField, hx, hy, hz]

/-- The fields of an instruction in the decoder's spelling fit their slots. -/
theorem fieldsFit_encFields (h : i.canonical Params.default typed a = true) :
    FieldsFit a (encFields Params.default a i) := by
  have hzero : 0 < 2 ^ Config.fw a := Nat.two_pow_pos _
  have hconst : Params.default.constants = {} := rfl
  have htarget {op : Operand} (ht : canonTarget a op = true) : operandField Params.default a op < 2 ^ Config.fw a :=
    (operandField_target ht).1
  have hlink {op : Operand} (hl : canonLr Params.default a op = true) :
      operandField Params.default a op < 2 ^ Config.fw a := (decLr_operandField hl).1
  have hraw {op : Operand} (hr : canonRaw Params.default a typed op = true) :
      operandField Params.default a op < 2 ^ Config.fw a := by
    cases typed with
    | false =>
      obtain ⟨v, rfl, hv⟩ := canonRaw_untyped hr
      exact hv
    | true => exact operandField_lt hr
  cases i with
  | mov src dst | jmp t => cases h
  | _ =>
    simp only [Instr.canonical, Bool.and_eq_true] at h
    constructor <;> simp [encFields, operandField_lt, htarget, hlink, hraw, h, hzero, hconst]

end Decoding

/-! ### The word of an instruction -/

section Words

variable {p : Params} {a : Arch} {typed : Bool} {i : Instr} {x y : Operand}

theorem isValidImmOperand_of_canonOp (h : canonOp p a x = true) : Flags.isValidImmOperand a x = Flags.isImm x := by
  cases x with
  | imm v => exact h
  | _ => rfl

/-- A decoded immediate is native, so that no decoded `jand` or `jnand` is emulated (42_jumps.md rule R191). -/
theorem wideMask_of_canonOp (hx : canonOp p a x = true) (hy : canonOp p a y = true) : wideMask a x y = none := by
  cases hw : wideMask a x y with
  | none => rfl
  | some w =>
    obtain ⟨v, z⟩ := w
    obtain ⟨hvalid, hside⟩ := wideMask_some hw
    rw [isValidImmOperand_of_canonOp hx, isValidImmOperand_of_canonOp hy] at hvalid
    obtain ⟨rfl, -⟩ | ⟨-, rfl, -⟩ := hside <;> simp [Flags.isImm] at hvalid

/-- An instruction in the decoder's spelling stands for itself (30_encoding.md rule R107). -/
theorem expand_of_canonical (h : i.canonical p typed a = true) : expand p a i = [i] := by
  cases i with
  | mov src dst | jmp t => cases h
  | jand x y t | jnand x y t =>
    simp only [Instr.canonical, Bool.and_eq_true] at h
    obtain ⟨⟨hx, hy⟩, -⟩ := h
    simp [expand, wideMask_of_canonOp hx hy]
  | _ => rfl

theorem encode_of_canonical (h : i.canonical p typed a = true) : encode p a i = [pack a (encFields p a i)] := by
  rw [encode, expand_of_canonical h, List.map_singleton]

theorem unpack_pack_of_fits {x : WordFields} (hx : FieldsFit a x) : unpack a (pack a x) = x := by
  rw [unpack_pack, Nat.mod_eq_of_lt hx.f0, Nat.mod_eq_of_lt hx.f1, Nat.mod_eq_of_lt hx.f2]

end Words

/-- Settles O11: a canonical instruction encodes to one word, whose fields are read back and classify as it. -/
theorem decodeOfEncodeIsTheInstruction : Obligations.DecodeOfEncodeIsTheInstruction := by
  intro typed a i h
  refine ⟨_, encode_of_canonical h, ?_⟩
  rw [decodeDefault, decode_of_fits (fitsArch_pack a _), unpack_pack_of_fits (fieldsFit_encFields h),
    decFields_encFields h]

end Sys2Proof.Laws.RoundTrip

/-! Assembling a decoded word again: the fields of a word whose fixed sub-fields hold their constants are those of the
instruction it decodes to, which the encoder accepts but for the co-occurrence rule (30_encoding.md rule R82;
43_call_ret_nap.md rule R231; 47_decoder.md rules R333, R340). -/

namespace Sys2Proof.Laws.Reassembly

open Sys2Proof Sys2Proof.Machine Sys2Proof.Safety Sys2Proof.Claims Sys2Proof.WellFormed Sys2Proof.Decode
  Sys2Proof.Laws.Encoding Sys2Proof.Laws.Acceptance Sys2Proof.Laws.Alu Sys2Proof.Laws.WordLayout Sys2Proof.Laws.RoundTrip

/-! ### Fixed sub-fields -/

/-- The fixed sub-fields: the opcode of the form, the slot, the constant (30_encoding.md rule R100, 43_call_ret_nap.md rule
R231). -/
def fixedSlots (p : Params) : List (Opcode × Nat × Nat) :=
  let o := p.opcodes
  let k := p.constants
  [(o.tkiph, 1, k.tkip1), (o.tkiphs, 1, k.tkip1), (o.tkipl, 1, k.tkip1), (o.tkipls, 1, k.tkip1),
    (o.call, 1, k.call1), (o.calls, 0, k.calls0), (o.calls, 1, k.calls1),
    (o.rets, 0, k.rets0), (o.rets, 1, k.rets1), (o.rets, 2, k.rets2), (o.nap, 0, k.nap0), (o.nap, 1, k.nap1),
    (o.nap, 2, k.nap2)]

/-- Every fixed sub-field of a word's opcode holds its constant. -/
def HoldsConstants (p : Params) (x : WordFields) : Prop :=
  ∀ row ∈ fixedSlots p, row.1 = x.opc → slotOf x row.2.1 = row.2.2

section Fields

variable {a : Arch} {typed : Bool} {i : Instr} {x : WordFields}

@[simp] theorem operandField_address (p : Params) (t : Nat) : operandField p a (.address t) = t := rfl

/-- An extended instruction encodes to the opcode and the fields it was decoded from. -/
theorem encFields_familyRow (hx : FieldsFit a x) (h : FamilyRow a x i) : encFields Params.default a i = x := by
  have hm : ((x.opc.toNat : Int) / 16 % 16).toNat = x.opc.toNat / 16 % 16 := by omega
  have hs : ((x.opc.toNat : Int) % 16).toNat = x.opc.toNat % 16 := by omega
  have hc : ((x.opc.toNat : Int) % 256).toNat = x.opc.toNat % 256 := by omega
  have hext := extOpcode_of_parts x.opc
  have hcond := condOpcode_of_parts x.opc
  suffices hrows : ∀ row ∈ familyTable Params.default.opcodes x.opc (decOp Params.default a x.f0)
      (decOp Params.default a x.f1) (decOp Params.default a x.f2) x.f2,
      row.1 = x.opc.extractLsb' 8 4 → encFields Params.default a row.2 = x from hrows _ h rfl
  intro row hrow hkey
  rw [← hkey] at hext hcond
  simp only [familyTable, List.mem_cons, List.not_mem_nil, or_false] at hrow
  rcases hrow with rfl | rfl | rfl | rfl | rfl | rfl <;>
    simp only [encFields, auxValue, hm, hs, hc, hext, hcond, operandField_decOp hx.f0, operandField_decOp hx.f1,
      operandField_decOp hx.f2, operandField_address]

/-- An instruction with an exact opcode encodes to the fields it was decoded from, its fixed sub-fields apart. -/
theorem encFields_exactRow (hx : FieldsFit a x) (hc : HoldsConstants Params.default x) (h : ExactRow a x i) :
    encFields Params.default a i = x := by
  obtain ⟨opc, f0, f1, f2⟩ := x
  suffices hrows : ∀ row ∈ exactTable Params.default (decOp Params.default a f0) (decOp Params.default a f1)
      (decOp Params.default a f2) ⟨opc, f0, f1, f2⟩, row.1 = opc →
      encFields Params.default a row.2 = ⟨opc, f0, f1, f2⟩ from hrows _ h rfl
  simp only [HoldsConstants, fixedSlots, List.forall_mem_cons, slotOf] at hc
  simp only [exactTable, List.forall_mem_append, List.forall_mem_cons, List.not_mem_nil, encFields,
    operandField_decOp hx.f0, operandField_decOp hx.f1, operandField_decOp hx.f2, operandField_decLr,
    operandField_address, WordFields.mk.injEq, and_true]
  simp +contextual [hc]

/-- The raw fallback encodes to the opcode and the fields it was decoded from. -/
theorem encFields_decFallback (hx : FieldsFit a x) :
    encFields Params.default a (decFallback typed x.opc (decOp Params.default a x.f0) (decOp Params.default a x.f1)
      (decOp Params.default a x.f2) x) = x := by
  cases typed with
  | false => simp [decFallback, encFields, operandField]
  | true =>
    simp [decFallback, encFields, operandField_decOp hx.f0, operandField_decOp hx.f1, operandField_decOp hx.f2]

/-- The fields of a word are those of the instruction it decodes to, if its fixed sub-fields hold their constants. -/
theorem encFields_decFields (hx : FieldsFit a x) (hc : HoldsConstants Params.default x) :
    encFields Params.default a (decFields Params.default typed a x) = x := by
  unfold decFields
  dsimp only
  split
  · rename_i i hi
    exact encFields_familyRow hx (decExtended_mem hi)
  · split
    · rename_i i hi
      exact encFields_exactRow hx hc (decExact_mem hi)
    · exact encFields_decFallback hx

end Fields

/-! ### Words with their constants -/

section Constants

variable {p : Params} {a : Arch} {i j : Instr} {x : WordFields}

theorem holdsConstants_of_not_mem (h : x.opc ∉ (fixedSlots p).map Prod.fst) : HoldsConstants p x :=
  fun _ hrow hopc => absurd (hopc ▸ List.mem_map_of_mem hrow) h

theorem mem_fixedSlotOpcodes {opc : Opcode} (h : opc ∈ (fixedSlots Params.default).map Prod.fst) :
    opc.toNat ∈ fixedSlotOpcodes := by
  have hall : ∀ n ∈ ((fixedSlots Params.default).map Prod.fst).map BitVec.toNat, n ∈ fixedSlotOpcodes := by decide
  exact hall _ (List.mem_map_of_mem h)

/-- An opcode with a bit of the families set is that of no form with a fixed sub-field. -/
theorem holdsConstants_of_le (h : 0x200 ≤ x.opc.toNat) : HoldsConstants Params.default x := by
  refine holdsConstants_of_not_mem fun hmem => ?_
  have hlt : ∀ n ∈ fixedSlotOpcodes, n < 0x200 := by decide
  exact absurd h (Nat.not_le.2 (hlt _ (mem_fixedSlotOpcodes hmem)))

/-- Whatever the auxiliary numbers, an opcode has the bits of its family: those of the default ones are above every exact
opcode. -/
theorem le_toNat_ofNat_or {fam : Family} (hf : fam ∈ Flags.extendedFamilies Params.default.opcodes) (n : Nat) :
    0x200 ≤ (BitVec.ofNat 12 (fam.toNat <<< 8 ||| n)).toNat := by
  have hbits : ∀ f ∈ Flags.extendedFamilies Params.default.opcodes, f.getLsbD 1 = true ∨ f.getLsbD 2 = true := by
    decide
  have hbit {k : Nat} (hk : k < 4) (h : fam.getLsbD k = true) :
      (BitVec.ofNat 12 (fam.toNat <<< 8 ||| n)).getLsbD (k + 8) = true := by
    have hlt : k + 8 < 12 := by omega
    rw [BitVec.getLsbD_ofNat, decide_eq_true hlt, Bool.true_and, Nat.testBit_or, Nat.testBit_shiftLeft]
    simp [BitVec.testBit_toNat, h]
  obtain h | h := hbits fam hf
  · exact Nat.ge_two_pow_of_testBit (hbit (by decide) h)
  · exact (by decide : 0x200 ≤ 2 ^ 10).trans (Nat.ge_two_pow_of_testBit (hbit (by decide) h))

theorem holdsConstants_ext {fam : Family} (hf : fam ∈ Flags.extendedFamilies Params.default.opcodes) (m n f0 f1 f2 : Nat) :
    HoldsConstants Params.default ⟨extOpcode fam m n, f0, f1, f2⟩ := by
  refine holdsConstants_of_le ?_
  rw [extOpcode, Nat.or_assoc]
  exact le_toNat_ofNat_or hf _

theorem holdsConstants_cond {fam : Family} (hf : fam ∈ Flags.extendedFamilies Params.default.opcodes) (c f0 f1 f2 : Nat) :
    HoldsConstants Params.default ⟨condOpcode fam c, f0, f1, f2⟩ := holdsConstants_of_le (le_toNat_ofNat_or hf _)

/-- Every form encodes its constants; only a raw form can write other values (47_decoder.md rule R340). -/
theorem holdsConstants_encFields (hraw : ∀ h x y z, i = .raw h x y z → h ≤ 0xFFF ∧ h ∉ fixedSlotOpcodes) :
    HoldsConstants Params.default (encFields Params.default a i) := by
  cases i with
  | srx m n x y z | orx m n x y z | jzx m n x y z | jnzx m n x y z => exact holdsConstants_ext (by decide) _ _ _ _ _
  | jext c x y z | jnext c x y z => exact holdsConstants_cond (by decide) _ _ _ _
  | jmp t => exact holdsConstants_cond (by decide) _ _ _ _
  | raw n x y z =>
    obtain ⟨hn, hnot⟩ := hraw n x y z rfl
    refine holdsConstants_of_not_mem fun hmem => hnot ?_
    have hopc := mem_fixedSlotOpcodes hmem
    rwa [encFields, BitVec.toNat_ofNat, Nat.mod_eq_of_lt (by omega)] at hopc
  | tkiph x d | tkiphs x d | tkipl x d | tkipls x d | call lr t | calls t | rets | nap =>
    simp [HoldsConstants, fixedSlots, encFields, Params.default, slotOf]
  | _ => exact holdsConstants_of_not_mem (of_decide_eq_true rfl)

end Constants

/-! ### Acceptance -/

section Acceptance

variable {p : Params} {a : Arch} {typed : Bool} {i : Instr} {x y z : Operand}

theorem okIn_of_canonOp (h : canonOp p a x = true) : okIn p a x = true := by
  cases x with
  | imm v => exact h
  | reg k n => cases k <;> exact h
  | direct o => rfl
  | indirect o r => exact (Bool.and_eq_true_iff.1 h).2
  | raw v =>
    simp only [canonOp, isReservedIndirect, Bool.and_eq_true] at h
    exact h.1.1.1.1.1
  | _ => cases h

theorem okOut_of_canonOp (h : canonOp p a x = true) : okOut p a x = true := okOut_of_okIn (okIn_of_canonOp h)

theorem okTarget_of_canonTarget (h : canonTarget a x = true) : okTarget a x = true := by
  cases x with
  | address t => exact h
  | _ => cases h

theorem okLr_of_canonLr (h : canonLr p a x = true) : okLr p a x = true := by
  cases x with
  | linkReg n => exact h
  | raw v => exact (Bool.and_eq_true_iff.1 h).1
  | _ => cases h

theorem okAux_of_canonAux {max : Nat} (h : canonAux max x = true) : okAux max x = true := by
  cases x with
  | number v => exact h
  | _ => cases h

theorem okIn_of_canonRaw (h : canonRaw p a typed x = true) : okIn p a x = true := by
  cases typed with
  | true => exact okIn_of_canonOp h
  | false =>
    obtain ⟨v, rfl, hv⟩ := canonRaw_untyped h
    exact decide_eq_true hv

/-- The co-occurrence rule is the one check that decoded inputs can fail (30_encoding.md rule R82). -/
theorem okPair_or_break (hx : okIn p a x = true) (hy : okIn p a y = true) :
    okPair p a x y = true ∨ BreakCooccurrence x y := by
  cases hmem : Flags.isMemory x && Flags.isMemory y with
  | true => exact .inr (.inl (Bool.and_eq_true_iff.1 hmem))
  | false =>
    cases hspr : Flags.isSpr x && Flags.isSpr y with
    | true => exact .inr (.inr (Bool.and_eq_true_iff.1 hspr))
    | false => exact .inl (by simp [okPair, pairOk, hx, hy, hmem, hspr])

/-- A form with two inputs that is accepted when they may stand together. -/
theorem wellFormed_or_break (hx : okIn p a x = true) (hy : okIn p a y = true) (hi : HasInputs i x y)
    (hwf : okPair p a x y = true → i.wellFormed p a = true) :
    i.wellFormed p a = true ∨ ∃ x y, HasInputs i x y ∧ BreakCooccurrence x y :=
  (okPair_or_break hx hy).imp hwf fun hb => ⟨x, y, hi, hb⟩

/-- The encoder accepts every statement in the decoder's spelling whose inputs may stand together. -/
theorem wellFormed_of_canonical (h : i.canonical p typed a = true) :
    i.wellFormed p a = true ∨ ∃ x y, HasInputs i x y ∧ BreakCooccurrence x y := by
  cases i with
  | mov src dst | jmp t => cases h
  | mul x y d | add x y d | addDot x y d | addc x y d | addcDot x y d | sub x y d | subDot x y d | subc x y d
  | subcDot x y d | sra x y d | or x y d | and x y d | xor x y d | sr x y d | sl x y d | rl x y d | rr x y d
  | nand x y d =>
    simp only [Instr.canonical, Bool.and_eq_true] at h
    obtain ⟨⟨hx, hy⟩, hd⟩ := h
    refine wellFormed_or_break (okIn_of_canonOp hx) (okIn_of_canonOp hy)
      ⟨x, x, x, 0, d, _, by simp [pairedForms], rfl⟩ fun hp => ?_
    simp [Instr.wellFormed, okStd3, hp, okOut_of_canonOp hd]
  | tkiph x d | tkiphs x d | tkipl x d | tkipls x d =>
    simp only [Instr.canonical, Bool.and_eq_true] at h
    obtain ⟨hx, hd⟩ := h
    simp [Instr.wellFormed, okIn_of_canonOp hx, okOut_of_canonOp hd]
  | srx m n x y d | orx m n x y d =>
    simp only [Instr.canonical, Bool.and_eq_true] at h
    obtain ⟨⟨⟨⟨hm, hn⟩, hx⟩, hy⟩, hd⟩ := h
    refine wellFormed_or_break (okIn_of_canonOp hx) (okIn_of_canonOp hy)
      ⟨m, n, x, 0, d, _, by simp [pairedForms], rfl⟩ fun hp => ?_
    simp [Instr.wellFormed, okStd3, hp, okOut_of_canonOp hd, okAux_of_canonAux hm, okAux_of_canonAux hn]
  | jzx m n x y t | jnzx m n x y t =>
    simp only [Instr.canonical, Bool.and_eq_true] at h
    obtain ⟨⟨⟨⟨hm, hn⟩, hx⟩, hy⟩, ht⟩ := h
    refine wellFormed_or_break (okIn_of_canonOp hx) (okIn_of_canonOp hy)
      ⟨m, n, x, 0, t, _, by simp [pairedForms], rfl⟩ fun hp => ?_
    simp [Instr.wellFormed, okCjmp, hp, okTarget_of_canonTarget ht, okAux_of_canonAux hm, okAux_of_canonAux hn]
  | jext c x y t | jnext c x y t =>
    simp only [Instr.canonical, Bool.and_eq_true] at h
    obtain ⟨⟨⟨hc, hx⟩, hy⟩, ht⟩ := h
    refine wellFormed_or_break (okIn_of_canonOp hx) (okIn_of_canonOp hy)
      ⟨x, x, c, 0, t, _, by simp [pairedForms], rfl⟩ fun hp => ?_
    simp [Instr.wellFormed, okCjmp, hp, okTarget_of_canonTarget ht, okAux_of_canonAux hc]
  | js x y t | jns x y t | je x y t | jne x y t | jls x y t | jges x y t | jgs x y t | jles x y t | jdn x y t
  | jdpz x y t | jdp x y t | jdnz x y t | jl x y t | jge x y t | jg x y t | jle x y t =>
    simp only [Instr.canonical, Bool.and_eq_true] at h
    obtain ⟨⟨hx, hy⟩, ht⟩ := h
    refine wellFormed_or_break (okIn_of_canonOp hx) (okIn_of_canonOp hy)
      ⟨x, x, x, 0, t, _, by simp [pairedForms], rfl⟩ fun hp => ?_
    simp [Instr.wellFormed, okCjmp, hp, okTarget_of_canonTarget ht]
  | jand x y t | jnand x y t =>
    simp only [Instr.canonical, Bool.and_eq_true] at h
    obtain ⟨⟨hx, hy⟩, ht⟩ := h
    refine wellFormed_or_break (okIn_of_canonOp hx) (okIn_of_canonOp hy)
      ⟨x, x, x, 0, t, _, by simp [pairedForms], rfl⟩ fun hp => ?_
    simp [Instr.wellFormed, okJand_native (wideMask_of_canonOp hx hy), okCjmp, hp, okTarget_of_canonTarget ht]
  | call lr t =>
    simp only [Instr.canonical, Bool.and_eq_true] at h
    obtain ⟨hlr, ht⟩ := h
    simp [Instr.wellFormed, okLr_of_canonLr hlr, okTarget_of_canonTarget ht]
  | calls t => exact .inl (okTarget_of_canonTarget h)
  | ret x y z =>
    simp only [Instr.canonical, Bool.and_eq_true] at h
    obtain ⟨⟨hx, hy⟩, hz⟩ := h
    simp [Instr.wellFormed, okLr_of_canonLr hx, okLr_of_canonLr hy, okLr_of_canonLr hz]
  | rets | nap => exact .inl rfl
  | raw n x y z =>
    simp only [Instr.canonical, Bool.and_eq_true] at h
    obtain ⟨⟨⟨⟨hn, -⟩, hx⟩, hy⟩, hz⟩ := h
    refine wellFormed_or_break (okIn_of_canonRaw hx) (okIn_of_canonRaw hy)
      ⟨x, x, x, n, z, _, by simp [pairedForms], rfl⟩ fun hp => ?_
    simp only [Instr.wellFormed, okStd3, hn, hp, okOut_of_okIn (okIn_of_canonRaw hz), Bool.and_self]

end Acceptance

/-! ### Reassembly -/

section Words

variable {a : Arch} {w : Word} {i j : Instr} {x : WordFields}

/-- A word that passes the width check is the word of its own fields. -/
theorem pack_unpack (h : fitsArch a w = true) : pack a (unpack a w) = w := by
  have hw := (fitsArch_iff a w).1 h
  refine BitVec.eq_of_toNat_eq ?_
  rw [toNat_pack, unpack_eq]
  cases a <;> simp only [Config.fw, Config.wordUsed, BitVec.toNat_ofNat] at hw ⊢ <;> omega

/-- The default constants fit their slots, so that packing keeps them. -/
theorem holdsConstants_unpack_pack (h : HoldsConstants Params.default x) :
    HoldsConstants Params.default (unpack a (pack a x)) := by
  have hzero : ∀ row ∈ fixedSlots Params.default, row.2.2 = 0 := by decide
  have hslot (n : Nat) : slotOf (unpack a (pack a x)) n = slotOf x n % 2 ^ Config.fw a := by
    rw [unpack_pack]
    match n with
    | 0 | 1 | _ + 2 => rfl
  intro row hrow hopc
  rw [unpack_pack] at hopc
  rw [hslot, h row hrow hopc, hzero row hrow, Nat.zero_mod]

/-- Only a raw form expands to a raw form. -/
theorem raw_of_mem_expand {p : Params} {h : Nat} {x y z : Operand} (hj : .raw h x y z ∈ expand p a i) :
    i = .raw h x y z := by
  cases i with
  | raw n u v t => exact (List.mem_singleton.1 hj).symm
  | jand u v t =>
    rw [expand_jand] at hj
    cases hw : wideMask a u v <;> simp [hw] at hj
  | jnand u v t =>
    rw [expand_jnand] at hj
    cases hw : wideMask a u v <;> simp [hw] at hj
  | mov src dst =>
    cases src with
    | imm v =>
      cases hv : Flags.isValidImmediate a v with
      | true => simp [expand, hv] at hj
      | false => cases he : p.movEmul <;> simp [expand, hv, he] at hj
    | _ => simp [expand] at hj
  | _ => simp [expand] at hj

end Words

/-- Settles O13: the fields of an assembled word hold their constants, so that those of the decoded instruction
are the same. -/
theorem assembledWordReassembles : Obligations.AssembledWordReassembles := by
  intro a i w hwf _ hfixed hw
  obtain ⟨j, hj, rfl⟩ := List.mem_map.1 hw
  have hfit := fitsArch_pack a (encFields Params.default a j)
  have hconst : HoldsConstants Params.default (encFields Params.default a j) :=
    holdsConstants_encFields fun h x y z hraw => by
      obtain rfl := raw_of_mem_expand (hraw ▸ hj)
      exact ⟨of_decide_eq_true (Bool.and_eq_true_iff.1 hwf).1, hfixed h x y z rfl⟩
  have hdecode := decode_of_fits (p := Params.default) (typed := false) hfit
  have hcanon := decodedInstructionIsCanonical _ _ _ _ hdecode
  refine ⟨_, hdecode, ?_, wellFormed_of_canonical hcanon⟩
  rw [encode_of_canonical hcanon, encFields_decFields (fieldsFit_unpack a _) (holdsConstants_unpack_pack hconst),
    pack_unpack hfit]

end Sys2Proof.Laws.Reassembly

/-! The decoder's stages at the two ends of classification: ingestion with the width check, the run of a decoded word, the
naming of labels and the statement stream (47_decoder.md rules R310 to R315, R320 to R324, R345). -/

namespace Sys2Proof.Laws.Stream

open Sys2Proof Sys2Proof.Machine Sys2Proof.Safety Sys2Proof.Claims Sys2Proof.Laws.Steps Sys2Proof.Laws.Exec
  Sys2Proof.Laws.WordLayout

section Step

variable {s : State} {k : Nat}

/-! ### Ingestion -/

theorem step_ingest {bs : List Byte} (ht : s.task = .ingest bs) : step s = .next (ingestStep bs s) := by
  simp only [step, ht]

theorem ingestStep_ok {bs body : List Byte} (h : streamBody s.cfg.params s.cfg.outFmt bs = .ok body) :
    ingestStep bs s = { s with count := body.length / 8, task := .unpack body } := by
  simp only [ingestStep, h]

theorem ingestStep_error {bs : List Byte} {text : String} (h : streamBody s.cfg.params s.cfg.outFmt bs = .error text) :
    ingestStep bs s = s.raise .E19 (.text text) .none := by
  simp only [ingestStep, h]

theorem exists_of_length_eq_four {α : Type} {xs : List α} (h : xs.length = 4) : ∃ a b c d, xs = [a, b, c, d] := by
  match xs, h with
  | [a, b, c, d], _ => exact ⟨a, b, c, d, rfl⟩

/-- The header of a stream in the native format is right exactly when it holds the size of what follows (47_decoder.md rule
R310). -/
theorem headerProblem_eq_none_iff {p : Params} {bs : List Byte} :
    headerProblem p bs = none ↔ ∃ b4 b5 b6 b7 body,
      bs = [p.hdrTypeUcode, p.hdrVersion, 0, 0, b4, b5, b6, b7] ++ body ∧
        Decode.readBe [b4, b5, b6, b7] = body.length := by
  constructor
  · intro h
    unfold headerProblem at h
    split at h
    · cases h
    · rename_i hlen
      split at h
      · cases h
      · rename_i htag
        split at h
        · cases h
        · rename_i hsize
          obtain ⟨b4, b5, b6, b7, hfour⟩ : ∃ b4 b5 b6 b7, (bs.drop 4).take 4 = [b4, b5, b6, b7] :=
            exists_of_length_eq_four (by simp; omega)
          have hsplit : bs = bs.take 4 ++ ((bs.drop 4).take 4 ++ bs.drop 8) := by
            rw [← List.drop_drop (i := 4) (j := 4), List.take_append_drop, List.take_append_drop]
          rw [not_not.1 htag, hfour] at hsplit
          refine ⟨b4, b5, b6, b7, bs.drop 8, hsplit, ?_⟩
          rw [← hfour, not_not.1 hsize, List.length_drop]
  · rintro ⟨b4, b5, b6, b7, body, rfl, hsize⟩
    simp [headerProblem, hsize]

/-- A stream that ingestion accepts: whole words, after a right header in the native format (47_decoder.md rule R310). -/
def Accepted (p : Params) : OutFmt → List Byte → Prop
  | .b43, bs => headerProblem p bs = none ∧ (bs.drop 8).length % 8 = 0
  | .rawBe32, bs => bs.length % 8 = 0
  | .rawLe32, bs => bs.length % 8 = 0

theorem streamBody_accepted {p : Params} {fmt : OutFmt} {bs : List Byte} (h : Accepted p fmt bs) :
    streamBody p fmt bs = .ok (bs.drop (headerLength fmt)) ∧ headerLength fmt ≤ bs.length := by
  cases fmt with
  | b43 =>
    obtain ⟨hheader, hlen⟩ := h
    obtain ⟨_, _, _, _, _, hbs, -⟩ := headerProblem_eq_none_iff.1 hheader
    refine ⟨?_, by simp [hbs, headerLength]⟩
    simp only [streamBody, hheader, hlen, if_true, headerLength]
  | rawLe32 | rawBe32 => exact ⟨if_pos h, Nat.zero_le _⟩

theorem streamBody_refused {p : Params} {fmt : OutFmt} {bs : List Byte} (h : ¬Accepted p fmt bs) :
    ∃ text, streamBody p fmt bs = .error text := by
  cases fmt with
  | b43 =>
    unfold streamBody
    cases hheader : headerProblem p bs with
    | some text => exact ⟨text, rfl⟩
    | none => exact ⟨_, if_neg fun hlen => h ⟨hheader, hlen⟩⟩
  | rawLe32 | rawBe32 => exact ⟨_, if_neg h⟩

/-! ### The width check -/

theorem step_unpack {body : List Byte} (ht : s.task = .unpack body) : step s = .next (unpackStep body s) := by
  simp only [step, ht]

/-- The bytes of a word are ingested as that word, or refused when it is too wide (47_decoder.md rules R311, R312). -/
theorem unpackStep_wordBytes {a : Arch} (ha : s.cfg.arch = some a) (w : Word) (body : List Byte) :
    unpackStep (Decode.wordBytes s.cfg.outFmt w ++ body) s =
      if Decode.fitsArch a w then { s with words := s.words ++ [w], task := .unpack body }
      else s.raise .E17 (.value s.words.length) (.word s.words.length) := by
  have hlen := length_wordBytes s.cfg.outFmt w
  have htake : (Decode.wordBytes s.cfg.outFmt w ++ body).take 8 = Decode.wordBytes s.cfg.outFmt w := List.take_left' hlen
  have hdrop : (Decode.wordBytes s.cfg.outFmt w ++ body).drop 8 = body := List.drop_left' hlen
  have hword : (Decode.wordBytes s.cfg.outFmt w ++ body).length = 8 + body.length := by simp
  simp only [unpackStep, ha, htake, hdrop, wordOfBytes_wordBytes, hword]
  rw [if_neg (by omega), if_neg (by omega)]

/-! ### A word under classification -/

theorem step_classify (ht : s.task = .classify k) : step s = runFetched (fetchWord k s) s := by simp only [step, ht]

/-! ### The statement stream -/

theorem step_nameLabels (ht : s.task = .nameLabels) : step s = .next (nameLabelsStep s) := by simp only [step, ht]

theorem nameLabelsStep_eq {a : Arch} (ha : s.cfg.arch = some a) :
    nameLabelsStep s =
      { s with stmts := [.arch (Config.archNumber a), .start entryName, .label entryName], task := .build 0 } := by
  simp only [nameLabelsStep, ha]

theorem step_build (ht : s.task = .build k) : step s = .next (buildStep k s) := by simp only [step, ht]

theorem buildStep_end (hd : s.decoded[k]? = none) : buildStep k s = s.complete := by simp only [buildStep, hd]

theorem buildStep_statement {n : Nat} {i : Instr} (hd : s.decoded[k]? = some (n, i)) :
    buildStep k s = { s with stmts := s.stmts ++ streamAt s.targets n i, task := .build (k + 1) } := by
  simp only [buildStep, hd]

/-- The stream completes only past the last classified word (47_decoder.md rule R324). -/
theorem decoded_end_of_completed (h : Completed (buildStep k s)) : s.decoded[k]? = none := by
  cases hd : s.decoded[k]? with
  | none => rfl
  | some d =>
    obtain ⟨hidle, -, -⟩ := h
    simp [buildStep_statement hd] at hidle

end Step

/-! ### The obligations of the stages -/

/-- Settles O46: the header decides a native stream, then the length; the length alone decides a raw one. -/
theorem malformedStreamIsRefused : Obligations.MalformedStreamIsRefused := by
  intro s bs ht hp whole accepted
  have haccepted : accepted ↔ Accepted s.cfg.params s.cfg.outFmt bs := by
    cases hf : s.cfg.outFmt with
    | b43 =>
      simp only [accepted, hf, Accepted, headerProblem_eq_none_iff, hp]
      constructor
      · rintro ⟨b4, b5, b6, b7, body, rfl, hsize, hlen⟩
        exact ⟨⟨b4, b5, b6, b7, body, rfl, by simpa [Decode.readBe] using hsize⟩, hlen⟩
      · rintro ⟨⟨b4, b5, b6, b7, body, rfl, hsize⟩, hlen⟩
        exact ⟨b4, b5, b6, b7, body, rfl, by simpa [Decode.readBe] using hsize, hlen⟩
    | rawLe32 | rawBe32 => simp only [accepted, hf, Accepted]
  rw [step_ingest ht, haccepted]
  refine ⟨fun h => ?_, fun h => ?_⟩
  · obtain ⟨hbody, hle⟩ := streamBody_accepted h
    rw [ingestStep_ok hbody]
    simp only [whole, List.length_drop, Nat.sub_sub_self hle]
  · obtain ⟨text, htext⟩ := streamBody_refused h
    exact ⟨text, congrArg _ (ingestStep_error htext)⟩

/-- Settles O9: the width check is a bound on the word; a Rev15 word reaches Rev5's with its opcode. -/
theorem wideWordIsRefused : Obligations.WideWordIsRefused := by
  refine ⟨fun s a w body ht ha => ?_, fun opc f0 f1 f2 => ?_⟩
  · intro limit
    have hfit : Decode.fitsArch a w = true ↔ w.toNat < limit := by
      rw [fitsArch_iff]
      cases a <;> rfl
    rw [step_unpack ht, unpackStep_wordBytes ha]
    exact ⟨fun h => by rw [if_pos (hfit.2 h)], fun h => by rw [if_neg (mt hfit.1 (Nat.not_lt.2 h))]⟩
  · rw [Bool.eq_false_iff, ne_eq, fitsArch_iff, toNat_pack]
    simp only [Config.fw, Config.wordUsed]
    omega

/-- Settles O14: the fetched word is decoded, and the step runs it. -/
theorem stepRunsTheDecodedWord : Obligations.StepRunsTheDecodedWord := by
  intro s k a w i ht ha hw hd
  rw [step_classify ht, fetchWord_run ha hw hd, runFetched]

/-! ### Labels -/

theorem labelName_injective {ts : List Nat} {t u : Nat} (ht : t ∈ ts) (h : labelName ts t = labelName ts u) : t = u :=
  (List.idxOf_inj ht).1 (Nat.repr_injective ((String.append_right_inj _).1 h))

theorem labelName_getElem {ts : List Nat} (hn : ts.Nodup) {j t : Nat} (h : ts[j]? = some t) :
    labelName ts t = "L" ++ Nat.repr j := by
  obtain ⟨hj, rfl⟩ := List.getElem?_eq_some_iff.1 h
  rw [labelName, hn.idxOf_getElem]

/-- Markers are a set kept in increasing order: the order of insertion leaves no trace (47_decoder.md rules R321, R322). -/
theorem insertTarget_comm {ts : List Nat} (h : ts.Pairwise (· < ·)) (t u : Nat) :
    insertTarget t (insertTarget u ts) = insertTarget u (insertTarget t ts) := by
  refine List.Pairwise.eq_of_mem_iff (insertTarget_pairwise (insertTarget_pairwise h))
    (insertTarget_pairwise (insertTarget_pairwise h)) fun v => ?_
  simp only [mem_insertTarget]
  exact or_left_comm

/-- Settles O47: a marker's place among increasing ones is its index, which tells them apart. -/
theorem labelsAreNamedInAddressOrder : Obligations.LabelsAreNamedInAddressOrder :=
  fun _ h => ⟨fun _ _ => labelName_getElem (h.imp Nat.ne_of_lt), fun _ _ ht _ => labelName_injective ht,
    insertTarget_comm h⟩

/-! ### Targets in the stream -/

theorem nameTarget_eq_self {ts : List Nat} {op : Operand} (h : ∀ t, op ≠ .address t) : nameTarget ts op = op := by
  cases op with
  | address t => exact absurd rfl (h t)
  | _ => rfl

/-- The target of a jump-class form is what `mapTarget` replaces (45_resolution.md rule R266). -/
theorem mapTarget_targetForms (f : Operand → Operand) {m n c x y lr : Operand} {mk : Operand → Instr}
    (h : mk ∈ targetForms m n c x y lr) (t : Operand) : Statements.mapTarget f (mk t) = mk (f t) := by
  simp only [targetForms, List.mem_append, List.mem_cons, List.not_mem_nil, or_false] at h
  obtain ((h | h | h | h) | h | h | h | h | h | h | h | h | h | h | h | h | h | h | h | h | h | h) | h | h | h := h <;>
    subst h <;> rfl

/-- An instruction is a jump-class form of its target, or `mapTarget` leaves it alone. -/
theorem targetForm_or_mapTarget_eq (i : Instr) :
    (∃ m n c x y lr, ∃ mk ∈ targetForms m n c x y lr, ∃ t, i = mk t) ∨ ∀ f, Statements.mapTarget f i = i := by
  cases i with
  | jzx m n x y t | jnzx m n x y t => exact .inl ⟨m, n, x, x, y, x, _, by simp [targetForms], t, rfl⟩
  | jext c x y t | jnext c x y t => exact .inl ⟨c, c, c, x, y, x, _, by simp [targetForms], t, rfl⟩
  | jand x y t | jnand x y t | js x y t | jns x y t | je x y t | jne x y t | jls x y t | jges x y t | jgs x y t
  | jles x y t | jdn x y t | jdpz x y t | jdp x y t | jdnz x y t | jl x y t | jge x y t | jg x y t | jle x y t =>
    exact .inl ⟨x, x, x, x, y, x, _, by simp [targetForms], t, rfl⟩
  | call lr t => exact .inl ⟨lr, lr, lr, lr, lr, lr, _, by simp [targetForms], t, rfl⟩
  | calls t | jmp t => exact .inl ⟨t, t, t, t, t, t, _, by simp [targetForms], t, rfl⟩
  | _ => exact .inr fun _ => rfl

/-- Settles O48: one step of the stream per case, and the target is the one operand it replaces. -/
theorem statementStreamIsBuiltInOrder : Obligations.StatementStreamIsBuiltInOrder := by
  refine ⟨fun s a ha ht => ?_, fun s k ht => ⟨fun i hd => ?_, fun hd => ?_⟩,
    fun ts t m n c x y lr mk hmk => mapTarget_targetForms _ hmk _, fun ts i h => ?_⟩
  · rw [step_nameLabels ht, nameLabelsStep_eq ha]
    cases a <;> rfl
  · rw [step_build ht, buildStep_statement hd, streamAt, ← List.append_assoc]
  · rw [step_build ht, buildStep_end hd, State.complete]
  · obtain ⟨m, n, c, x, y, lr, mk, hmk, t, rfl⟩ | hother := targetForm_or_mapTarget_eq i
    · rw [mapTarget_targetForms _ hmk, nameTarget_eq_self fun u hu => h m n c x y lr mk hmk u (congrArg mk hu)]
    · exact hother _

/-- Settles O49: past the last word, what holds of a stream under way speaks of all addresses. -/
theorem completedStreamHasEveryAddressOnce : Obligations.CompletedStreamHasEveryAddressOnce := by
  intro s t k hc ht h hdone
  have hstage := hc.stage
  simp only [StageConsistent, ht] at hstage
  obtain ⟨hlen, -, hk, hstream⟩ := hstage
  obtain rfl : buildStep k s = t := by simpa [step_build ht] using h
  have hend := decoded_end_of_completed hdone
  obtain rfl : k = s.count := Nat.le_antisymm hk (hlen ▸ List.getElem?_eq_none_iff.1 hend)
  rw [buildStep_end hend]
  exact hstream

end Sys2Proof.Laws.Stream

/-! Delivery's frame: what the one shared operation of 47_decoder.md rules R314 to R332 can do, whatever the instruction. -/

namespace Sys2Proof.Laws.Frame

open Sys2Proof Sys2Proof.Machine Sys2Proof.Safety Sys2Proof.Laws.Steps Sys2Proof.Laws.Exec

/-! ### The warnings of the checks -/

theorem code_of_mem_lrWarnings {p : Params} {x : Decode.WordFields} {slots : List Nat} {w : WCode × Info}
    (h : w ∈ lrWarnings p x slots) : w.1 = .W7 := by
  obtain ⟨i, -, hw⟩ := List.mem_flatMap.1 h
  split at hw
  · cases hw
  · rw [List.mem_singleton.1 hw]

theorem code_of_mem_constWarnings {m : String} {x : Decode.WordFields} {cs : List (Nat × Nat)} {w : WCode × Info}
    (h : w ∈ constWarnings m x cs) : w.1 = .W7 := by
  obtain ⟨c, -, hw⟩ := List.mem_flatMap.1 h
  split at hw
  · cases hw
  · rw [List.mem_singleton.1 hw]

/-- Warnings of a sub-field check at word `k` (43_call_ret_nap.md rules R230, R231). -/
def SubfieldWarnings (k : Nat) (ws : List Warning) : Prop := ∀ w ∈ ws, w.code = .W7 ∧ w.loc = .word k

theorem subfieldWarnings_logged {k : Nat} {ws : List (WCode × Info)} (h : ∀ w ∈ ws, w.1 = .W7) :
    SubfieldWarnings k (logged (.word k) ws) := by
  intro w hw
  obtain ⟨v, hv, rfl⟩ := List.mem_map.1 hw
  exact ⟨h v hv, rfl⟩

theorem SubfieldWarnings.append {k : Nat} {ws vs : List Warning} (hw : SubfieldWarnings k ws)
    (hv : SubfieldWarnings k vs) : SubfieldWarnings k (ws ++ vs) :=
  fun w h => (List.mem_append.1 h).elim (hw w) (hv w)

/-! ### The target -/

/-- A delivery checks the target that the instruction's shape gives it (45_resolution.md rule R266). -/
theorem recipeOf_target {i : Instr} {p : Params} {r : Recipe} (h : recipeOf i p = some r) :
    r.target = Flags.jumpTarget i := by
  cases i <;> cases h <;> rfl

/-- The markers `ts` are those of `us` and the target `o`, if it is an address (47_decoder.md rule R321). -/
def Marks (o : Option Operand) (us ts : List Nat) : Prop := ∀ u, u ∈ ts ↔ u ∈ us ∨ o = some (.address u)

/-- A target check stops with a fatal error, or marks the target. -/
theorem recordTarget_marks (o : Option Operand) (k : Nat) (s : State) :
    (∃ c i l, recordTarget o k s = (s.raise c i l, false)) ∨
      ∃ ts, recordTarget o k s = ({ s with targets := ts }, true) ∧ Marks o s.targets ts := by
  unfold recordTarget
  split
  · exact .inr ⟨s.targets, rfl, by simp [Marks]⟩
  · rename_i t
    split
    · exact .inl ⟨_, _, _, rfl⟩
    · refine .inr ⟨insertTarget t s.targets, rfl, fun u => ?_⟩
      simp only [mem_insertTarget, Option.some.injEq, Operand.address.injEq]
      exact ⟨fun h => h.symm.imp_right Eq.symm, fun h => h.symm.imp_left Eq.symm⟩
  · exact .inl ⟨_, _, _, rfl⟩

/-! ### One delivery -/

/-- What a delivery of `i` at word `k` can do: sub-field warnings, then a fatal error or the delivered statement. -/
inductive Delivery (s : State) (k : Nat) (i : Instr) : State → Prop
  | stops (ws : List Warning) (c : ECode) (info : Info) (l : Loc) :
    SubfieldWarnings k ws → Delivery s k i ({ s with warnings := s.warnings ++ ws }.raise c info l)
  | goesOn (ws : List Warning) (ts : List Nat) :
    SubfieldWarnings k ws → Marks (Flags.jumpTarget i) s.targets ts →
      Delivery s k i { s with
        warnings := s.warnings ++ ws, targets := ts, decoded := s.decoded ++ [(k, i)], task := .classify (k + 1) }

section Step

variable {s : State} {k : Nat} {i : Instr}

theorem Delivery.raise (c : ECode) (info : Info) (l : Loc) : Delivery s k i (s.raise c info l) := by
  have h := Delivery.stops (s := s) (k := k) (i := i) [] c info l nofun
  rwa [List.append_nil] at h

theorem Delivery.internal : Delivery s k i s.raiseInternal := .raise _ _ _

theorem deliver_delivery {r : Recipe} (hr : r.target = Flags.jumpTarget i) : Delivery s k i (deliver i r k s) := by
  cases ha : s.cfg.arch with
  | none => exact deliver_internal (.inl ha) ▸ .internal
  | some a =>
    cases hw : s.words[k]? with
    | none => exact deliver_internal (.inr hw) ▸ .internal
    | some w =>
      have hlr := subfieldWarnings_logged (k := k) fun _ =>
        code_of_mem_lrWarnings (p := s.cfg.params) (x := Decode.unpack a w) (slots := r.lrSlots)
      obtain ⟨c, info, l, h⟩ | ⟨ts, h, hts⟩ := recordTarget_marks r.target k
        { s with warnings := s.warnings ++ logged (.word k) (lrWarnings s.cfg.params (Decode.unpack a w) r.lrSlots) }
      · exact deliver_stops ha hw h ▸ .stops _ _ _ _ hlr
      · rw [deliver_ok ha hw h]
        dsimp only
        rw [List.append_assoc]
        exact .goesOn _ _ (hlr.append (subfieldWarnings_logged fun _ => code_of_mem_constWarnings)) (hr ▸ hts)

theorem exec_delivery {t : State} (ht : s.task = .classify k) (h : exec i s = .next t) : Delivery s k i t := by
  rw [exec_classify ht] at h
  cases h
  split
  · rename_i hr
    exact deliver_delivery (recipeOf_target hr)
  · exact .internal

end Step

/-- Settles O36: both ends of a delivery, field by field. -/
theorem deliveryFrame : Obligations.DeliveryFrame := by
  intro s t k i ht h
  cases exec_delivery ht h with
  | stops ws c info l hws =>
    have hengine : s.task.engine = some .dec := by rw [ht]; rfl
    exact ⟨⟨rfl, rfl, rfl, rfl, rfl, rfl, rfl, rfl⟩, rfl, by simp [hengine], ⟨ws, rfl, hws⟩,
      fun hrun => absurd rfl hrun, fun hrun => absurd rfl hrun, fun _ => ⟨rfl, rfl⟩⟩
  | goesOn ws ts hws hts =>
    exact ⟨⟨rfl, rfl, rfl, rfl, rfl, rfl, rfl, rfl⟩, rfl, rfl, ⟨ws, rfl, hws⟩, fun _ => hts,
      fun _ => ⟨rfl, rfl, rfl, rfl, rfl, rfl⟩, nofun⟩

end Sys2Proof.Laws.Frame

/-! The initvals serializer: the argument checks, the expansion of the operations, the offset limit, the records of both list
formats, and the completed list (48_initvals.md rules R350 to R365). -/

namespace Sys2Proof.Laws.Initvals

open Sys2Proof Sys2Proof.Machine Sys2Proof.Safety Sys2Proof.Claims Sys2Proof.Laws.Steps Sys2Proof.Laws.Emission
  Sys2Proof.Laws.WordLayout

/-! ### The raw writes of an operation -/

/-- The default SHM control word is the routing byte above the index of the 32-bit word (48_initvals.md rule R356). -/
theorem shmControlWord_default {off : Nat} (routing : Nat) (h : off / 4 < 65536) :
    shmControlWord {} routing off = routing * 65536 + off / 4 := by
  have hor := Nat.shiftLeft_add_eq_or_of_lt (i := 16) h routing
  simpa [shmControlWord, Nat.shiftRight_eq_div_pow, Nat.shiftLeft_eq] using hor.symm

theorem expandOp_shm32_aligned {m : Mmio} {c : ShmControl} {routing off v : Nat} (h : off % 4 = 0) :
    expandOp m c (.shm32 routing off v) = [⟨m.shmControl, 4, shmControlWord c routing off⟩, ⟨m.shmData, 4, v⟩] :=
  if_pos h

theorem expandOp_shm32_unaligned {m : Mmio} {c : ShmControl} {routing off v : Nat} (h : off % 4 ≠ 0) :
    expandOp m c (.shm32 routing off v) =
      expandShm16 m c routing off (v % 2 ^ 16) ++ expandShm16 m c routing (off + 2) (v / 2 ^ 16 % 2 ^ 16) :=
  if_neg h

theorem expandShm16_aligned {off : Nat} (routing v : Nat) (hoff : off / 4 < 65536) (h : off % 4 = 0) :
    expandShm16 {} {} routing off v = [⟨0x160, 4, routing * 65536 + off / 4⟩, ⟨0x164, 2, v⟩] := by
  rw [expandShm16, if_pos h, shmControlWord_default routing hoff]

theorem expandShm16_unaligned {off : Nat} (routing v : Nat) (hoff : off / 4 < 65536) (h : off % 4 ≠ 0) :
    expandShm16 {} {} routing off v = [⟨0x160, 4, routing * 65536 + off / 4⟩, ⟨0x166, 2, v⟩] := by
  rw [expandShm16, if_neg h, shmControlWord_default routing hoff]

/-- Settles O50: the plain operations by their definition; an SHM operation by its alignment, an unaligned 32-bit one as an
unaligned and an aligned 16-bit one. -/
theorem initvalOperationsExpand : Obligations.InitvalOperationsExpand := by
  refine fun routing off v => ⟨rfl, rfl, rfl, rfl, rfl, fun hoff _ hv => ?_⟩
  have hindex : off / 4 < 65536 := by omega
  refine ⟨fun haligned => ⟨expandShm16_aligned routing v hindex haligned, ?_⟩, fun hhalf => ?_⟩
  · rw [expandOp_shm32_aligned haligned, shmControlWord_default routing hindex]
  · have hunaligned : off % 4 ≠ 0 := by omega
    have hnext : (off + 2) / 4 = off / 4 + 1 := by omega
    have hhigh : v / 2 ^ 16 % 2 ^ 16 = v / 65536 := by omega
    refine ⟨expandShm16_unaligned routing v hindex hunaligned, ?_⟩
    rw [expandOp_shm32_unaligned hunaligned, expandShm16_unaligned routing _ hindex hunaligned,
      expandShm16_aligned routing _ (by omega) (by omega), hnext, hhigh]
    rfl

theorem off_le_of_mem_expandShm16 {c : ShmControl} {routing off v : Nat} {w : Write}
    (h : w ∈ expandShm16 {} c routing off v) : w.off ≤ 0x7FFF := by
  simp only [expandShm16, List.mem_cons, List.not_mem_nil, or_false] at h
  obtain rfl | rfl := h
  · simp
  · dsimp only
    split <;> decide

/-- Only an MMIO operation writes to an offset of its own (48_initvals.md rules R353 to R358, R364). -/
theorem off_le_of_mem_expandOp {c : ShmControl} {op : InitvalOp} (h16 : ∀ off v, op ≠ .mmio16 off v)
    (h32 : ∀ off v, op ≠ .mmio32 off v) {w : Write} (h : w ∈ expandOp {} c op) : w.off ≤ 0x7FFF := by
  cases op with
  | mmio16 off v => exact absurd rfl (h16 off v)
  | mmio32 off v => exact absurd rfl (h32 off v)
  | shm16 routing off v => exact off_le_of_mem_expandShm16 h
  | shm32 routing off v =>
    by_cases haligned : off % 4 = 0
    · simp only [expandOp_shm32_aligned haligned, List.mem_cons, List.not_mem_nil, or_false] at h
      obtain rfl | rfl := h <;> simp
    · rw [expandOp_shm32_unaligned haligned] at h
      exact (List.mem_append.1 h).elim off_le_of_mem_expandShm16 off_le_of_mem_expandShm16
  | phy | radio | tram =>
    simp only [expandOp, List.mem_cons, List.not_mem_nil, or_false] at h
    obtain rfl | rfl := h <;> simp

/-! ### The argument checks -/

/-- What one argument check draws (48_initvals.md rule R359). -/
def drawn : Bool × ECode × Nat → Option Err
  | (true, _, _) => none
  | (false, c, v) => some ⟨c, .value v⟩

theorem drawn_eq_none_iff {x : Bool × ECode × Nat} : drawn x = none ↔ x.1 = true := by
  obtain ⟨ok, c, v⟩ := x
  cases ok <;> simp [drawn]

theorem checkWidth_eq_drawn (n v : Nat) : checkWidth n v = drawn (decide (v < 2 ^ n), .E20, v) := by
  by_cases h : v < 2 ^ n
  · simp [checkWidth, drawn, h]
  · simp [checkWidth, drawn, h, Nat.le_of_not_lt h]

theorem checkShmOffset_eq_drawn (off : Nat) :
    checkShmOffset off = (drawn (decide (off < 2 ^ 16), .E20, off)).or (drawn (decide (off % 2 = 0), .E21, off)) := by
  rw [checkShmOffset, checkWidth_eq_drawn]
  obtain h | h := Nat.mod_two_eq_zero_or_one off <;> simp [drawn, h]

/-- The check of an operation draws what the first failing column draws (48_initvals.md rule R350). -/
theorem checkArgs_eq_findSome? (op : InitvalOp) : checkArgs op = (argumentChecks op).findSome? drawn := by
  have hcons (x : Bool × ECode × Nat) (xs : List (Bool × ECode × Nat)) :
      (x :: xs).findSome? drawn = (drawn x).or (xs.findSome? drawn) := by
    rw [List.findSome?_cons]
    cases drawn x <;> rfl
  cases op <;>
    simp only [checkArgs, argumentChecks, checkWidth_eq_drawn, checkShmOffset_eq_drawn, hcons, List.findSome?_nil,
      Option.or_none, Option.or_assoc]

theorem checkArgs_eq_none_iff {op : InitvalOp} : checkArgs op = none ↔ ∀ x ∈ argumentChecks op, x.1 = true := by
  simp only [checkArgs_eq_findSome?, List.findSome?_eq_none_iff, drawn_eq_none_iff]

theorem checkArgs_first_failing {op : InitvalOp} {n : Nat} {c : ECode} {v : Nat}
    (h : (argumentChecks op)[n]? = some (false, c, v)) (hpass : ∀ x ∈ (argumentChecks op).take n, x.1 = true) :
    checkArgs op = some ⟨c, .value v⟩ := by
  obtain ⟨hn, hx⟩ := List.getElem?_eq_some_iff.1 h
  rw [checkArgs_eq_findSome?, List.findSome?_eq_some_iff]
  refine ⟨(argumentChecks op).take n, (false, c, v), (argumentChecks op).drop (n + 1), ?_, rfl,
    fun x hmem => drawn_eq_none_iff.2 (hpass x hmem)⟩
  rw [← hx, List.getElem_cons_drop, List.take_append_drop]

section Step

variable {s : State} {k : Nat} {w : Write}

/-! ### The stages -/

theorem step_expand {todo : List InitvalOp} {j : Nat} (ht : s.task = .expand todo j) :
    step s = .next (expandStep todo j s) := by simp only [step, ht]

theorem expandStep_pass {op : InitvalOp} {rest : List InitvalOp} {j : Nat} (h : checkArgs op = none) :
    expandStep (op :: rest) j s = { s with
      writes := s.writes ++ expandOp s.cfg.params.mmio s.cfg.params.shmControl op, task := .expand rest (j + 1) } := by
  simp only [expandStep, h]

theorem expandStep_stop {op : InitvalOp} {rest : List InitvalOp} {j : Nat} {e : Err} (h : checkArgs op = some e) :
    expandStep (op :: rest) j s = s.raise e.code e.info (.op j) := by
  simp only [expandStep, h]

theorem step_checkOffset (ht : s.task = .checkOffset k) : step s = .next (checkOffsetStep k s) := by
  simp only [step, ht]

theorem checkOffsetStep_end (hw : s.writes[k]? = none) : checkOffsetStep k s = { s with task := .ivsHead } := by
  simp only [checkOffsetStep, hw]

theorem checkOffsetStep_write (hw : s.writes[k]? = some w) :
    checkOffsetStep k s =
      if s.cfg.params.ivOffMax < w.off then s.raise .E11 (.value w.off) (.write k)
      else { s with task := .checkOffset (k + 1) } := by
  simp only [checkOffsetStep, hw]

theorem step_ivsHead (ht : s.task = .ivsHead) : step s = .next (ivsHeadStep s) := by simp only [step, ht]

theorem ivsHeadStep_eq :
    ivsHeadStep s = { s with
      out := s.out ++ (if s.cfg.ivFmt = .legacy then header s.cfg.params s.cfg.params.hdrTypeIv s.writes.length else [])
      task := .ivsRecord 0 } := by
  cases hf : s.cfg.ivFmt <;> simp [ivsHeadStep, State.emit, hf]

theorem step_ivsRecord (ht : s.task = .ivsRecord k) : step s = .next (ivsRecordStep k s) := by simp only [step, ht]

theorem ivsRecordStep_write (hw : s.writes[k]? = some w) :
    ivsRecordStep k s = { s with
      out := s.out ++ (if s.cfg.ivFmt = .legacy then legacyRecord w else rawRecord w), task := .ivsRecord (k + 1) } := by
  cases hf : s.cfg.ivFmt <;> simp [ivsRecordStep, State.emit, hw, hf]

theorem ivsRecordStep_end (hw : s.writes[k]? = none) :
    ivsRecordStep k s = { s with
      out := s.out ++ (if s.cfg.ivFmt = .legacy then [] else rawTerminator), outValid := true, task := .idle } := by
  cases hf : s.cfg.ivFmt <;> simp [ivsRecordStep, State.emit, State.complete, hw, hf]

/-- A list completes only past its last raw write (48_initvals.md rule R363). -/
theorem writes_end_of_completed (h : Completed (ivsRecordStep k s)) : s.writes[k]? = none := by
  cases hw : s.writes[k]? with
  | none => rfl
  | some w =>
    obtain ⟨hidle, -, -⟩ := h
    simp [ivsRecordStep_write hw] at hidle

end Step

/-- Settles O51: the check of an operation draws the first failing column, or nothing. -/
theorem initvalArgumentsAreChecked : Obligations.InitvalArgumentsAreChecked := by
  refine fun s op rest j ht => ⟨fun h => ?_, fun n c v h hpass => ?_⟩
  · rw [step_expand ht, expandStep_pass (checkArgs_eq_none_iff.2 h)]
  · rw [step_expand ht, expandStep_stop (checkArgs_first_failing h hpass)]

/-- Settles O52: the stages around the check, the two sides of the limit, and the offsets of each operation. -/
theorem initvalOffsetLimit : Obligations.InitvalOffsetLimit := by
  refine ⟨fun s k hp => ?_, fun op h16 h32 w => off_le_of_mem_expandOp h16 h32⟩
  have hmax : s.cfg.params.ivOffMax = 0x7FFF := by rw [hp]; rfl
  refine ⟨fun ht => step_expand ht, fun ht => ⟨fun w hw hle => ?_, fun w hw hlt => ?_, fun hw => ?_⟩⟩
  · rw [step_checkOffset ht, checkOffsetStep_write hw, hmax, if_neg (Nat.not_lt.2 hle)]
  · rw [step_checkOffset ht, checkOffsetStep_write hw, hmax, if_pos hlt]
  · rw [step_checkOffset ht, checkOffsetStep_end hw]

/-! ### The bytes of a record -/

theorem readBe_be16 (v : Nat) : Decode.readBe (Decode.be16 v) = v % 2 ^ 16 := by
  simp only [Decode.readBe, Decode.be16, Decode.byteAt, List.foldl_cons, List.foldl_nil, BitVec.toNat_ofNat]
  omega

theorem readLe_le16 (v : Nat) : Decode.readLe (Decode.le16 v) = v % 2 ^ 16 := readBe_be16 v

/-- The size flag of the legacy record is bit 15 of its first word (48_initvals.md rule R361). -/
theorem or_sizeFlag {off : Nat} (h : off ≤ 0x7FFF) : off ||| 0x8000 = off + 0x8000 := by
  have hlt : off < 2 ^ 15 := by omega
  have hor := Nat.two_pow_add_eq_or_of_lt hlt 1
  rw [Nat.or_comm, Nat.add_comm]
  exact hor.symm

theorem readBe_legacyRecord_two {off v : Nat} (hoff : off ≤ 0x7FFF) (hv : v < 2 ^ 16) :
    Decode.readBe ((legacyRecord ⟨off, 2, v⟩).take 2) = off ∧
      Decode.readBe ((legacyRecord ⟨off, 2, v⟩).drop 2) = v := by
  have hfirst : (legacyRecord ⟨off, 2, v⟩).take 2 = Decode.be16 off := rfl
  have hrest : (legacyRecord ⟨off, 2, v⟩).drop 2 = Decode.be16 v := rfl
  rw [hfirst, hrest, readBe_be16, readBe_be16]
  omega

theorem readBe_legacyRecord_four {off v : Nat} (hoff : off ≤ 0x7FFF) (hv : v < 2 ^ 32) :
    Decode.readBe ((legacyRecord ⟨off, 4, v⟩).take 2) = off + 0x8000 ∧
      Decode.readBe ((legacyRecord ⟨off, 4, v⟩).drop 2) = v := by
  have hfirst : (legacyRecord ⟨off, 4, v⟩).take 2 = Decode.be16 (off ||| 0x8000) := rfl
  have hrest : (legacyRecord ⟨off, 4, v⟩).drop 2 = Decode.be32 v := rfl
  rw [hfirst, hrest, or_sizeFlag hoff, readBe_be16, readBe_be32]
  omega

/-- The fields of a raw record, each cut to its width (48_initvals.md rule R362). -/
theorem readLe_rawRecord (w : Write) :
    Decode.readLe ((rawRecord w).take 2) = w.off % 2 ^ 16 ∧
      Decode.readLe (((rawRecord w).drop 2).take 2) = w.size % 2 ^ 16 ∧
      Decode.readLe ((rawRecord w).drop 4) = w.value % 2 ^ 32 :=
  ⟨readLe_le16 w.off, readLe_le16 w.size, readLe_le32 w.value⟩

/-- Settles O53: the three stages of a list, and the fields of a record, which fit their widths. -/
theorem initvalRecordsReadBack : Obligations.InitvalRecordsReadBack := by
  refine ⟨fun s k => ⟨fun ht hp => ?_, fun w ht hw => ?_, fun ht hw => ?_⟩, fun off v hoff =>
    ⟨fun hv => ⟨rfl, readBe_legacyRecord_two hoff hv⟩, fun hv => ⟨rfl, readBe_legacyRecord_four hoff hv⟩,
      fun size hsize hv => ⟨rfl, ?_⟩⟩⟩
  · have hheader (n : Nat) : header s.cfg.params s.cfg.params.hdrTypeIv n = [0x69, 0x01, 0, 0] ++ Decode.be32 n := by
      rw [hp]
      rfl
    rw [step_ivsHead ht, ivsHeadStep_eq, hheader, be32_eq]
    rfl
  · rw [step_ivsRecord ht, ivsRecordStep_write hw]
  · rw [step_ivsRecord ht, ivsRecordStep_end hw, rawTerminator]
  · have hvalue : v < 2 ^ 32 := hv.trans_le (Nat.pow_le_pow_right two_pos (by omega))
    obtain ⟨hread_off, hread_size, hread_value⟩ := readLe_rawRecord ⟨off, size, v⟩
    rw [hread_off, hread_size, hread_value]
    dsimp only
    omega

/-! ### The completed list -/

theorem recordLength_legacy : recordLength .legacy = fun w => if w.size = 2 then 4 else 6 := rfl

theorem sum_recordLength_raw (ws : List Write) : (ws.map (recordLength .raw)).sum = 8 * ws.length := by
  have hconst : recordLength .raw = fun _ => 8 := rfl
  simp [hconst, Nat.mul_comm]

/-- Settles O54: past the last raw write, what holds of a list under way speaks of all of them; then the raw terminator. -/
theorem completedInitvalsLength : Obligations.CompletedInitvalsLength := by
  intro s t k hc ht h hdone
  have hstage := hc.stage
  simp only [StageConsistent, ht] at hstage
  obtain ⟨-, hk, hout⟩ := hstage
  obtain rfl : ivsRecordStep k s = t := by simpa [step_ivsRecord ht] using h
  have hend := writes_end_of_completed hdone
  obtain rfl : k = s.writes.length := Nat.le_antisymm hk (List.getElem?_eq_none_iff.1 hend)
  rw [List.take_length] at hout
  rw [ivsRecordStep_end hend]
  cases hf : s.cfg.ivFmt with
  | legacy =>
    rw [hf, recordLength_legacy, listHeaderLength] at hout
    simpa using hout
  | raw =>
    rw [hf, sum_recordLength_raw, listHeaderLength, Nat.zero_add] at hout
    simp [hout, rawTerminator, List.drop_left' hout]

end Sys2Proof.Laws.Initvals

/-! The checks of one memory operand (30_encoding.md rules R91, R92; 60_exceptions.md rule R388). -/

namespace Sys2Proof.Laws.MemoryOperands

open Sys2Proof Sys2Proof.Machine Sys2Proof.Safety Sys2Proof.Laws.Operands Sys2Proof.Laws.RoundTrip

/-- Beyond its width an offset counts by its low bits (30_encoding.md rule R92). -/
theorem operandField_indirect_truncated (o r : Nat) :
    Decode.operandField Params.default .rev5 (.indirect o r) =
      Decode.operandField Params.default .rev5 (.indirect (o % 64) r) := by
  simp [Decode.operandField, Config.indOffW]

/-- Settles O6: a register beyond the range is refused before any warning; an admitted operand draws the warnings of its
kind, and its field holds the truncated offset. -/
theorem memoryOperandChecksInOrder : Obligations.MemoryOperandChecksInOrder := by
  intro o
  refine ⟨rfl, rfl, fun ho => ?_, fun ho => ?_⟩
  · have haccepts := encIn_accepts (p := Params.default) (a := .rev5) (op := .indirect o 6) rfl
    have hwarnings : operandWarnings .rev5 (.indirect o 6) = [(.W3, .value 6), (.W2, .value o)] := by
      simp [operandWarnings, Config.indOffW, ho]
    have hfield : recordField Params.default .rev5 (.indirect o 6) = .value (0xB80 + o % 64) :=
      congrArg Field.value ((operandField_indirect_truncated o 6).trans
        (operandField_indirect (Nat.mod_lt o (by decide)) (Nat.le_refl 6)))
    rw [haccepts, hwarnings, hfield]
    exact ⟨rfl, rfl⟩
  · have haccepts := encIn_accepts (p := Params.default) (a := .rev5) (op := .direct o) rfl
    have hwarnings : operandWarnings .rev5 (.direct o) = [(.W2, .value o)] := by
      simp [operandWarnings, Config.dirW, ho]
    rw [haccepts, hwarnings]
    exact ⟨rfl, rfl⟩

end Sys2Proof.Laws.MemoryOperands

/-! Runs on the same input (60_exceptions.md rules R381, R390; 70_reset_and_hazards.md rules R410, R420): every step goes on,
and no stage reads what an earlier run, a free value or a later request may have left. -/

namespace Sys2Proof.Laws.Runs

open Sys2Proof Sys2Proof.Machine Sys2Proof.Safety Sys2Proof.Claims Sys2Proof.Laws Sys2Proof.Laws.Generation
  Sys2Proof.Laws.Exec Sys2Proof.Laws.Steps Sys2Proof.Laws.Operands Sys2Proof.Laws.Stages Sys2Proof.Laws.Stream
  Sys2Proof.Laws.Emission

variable {s : State}

/-! ### What no rule of a run reads -/

/-- The fields in which two states of one run may differ. -/
structure Unseen where
  addr : Nat
  freeCount : Nat
  requests : List Request
  out : List Byte
  stmts : List DecStmt

/-- `s` with its unseen fields replaced. -/
def withUnseen (s : State) (u : Unseen) : State :=
  { s with addr := u.addr, freeCount := u.freeCount, requests := u.requests, out := u.out, stmts := u.stmts }

/-- The fields `u` are those of `s` where a rule of the run reads or reports them: the outputs before a fatal error, `ADDR`
inside an address-assignment pass. -/
structure Fits (s : State) (u : Unseen) : Prop where
  outputs : s.fatal = none → s.out = u.out ∧ s.stmts = u.stmts
  addr : ∀ k, s.task = .assign k → s.addr = u.addr

theorem exists_fits_of_sameRun {t : State} (h : SameRun s t) : ∃ u, t = withUnseen s u ∧ Fits s u := by
  obtain ⟨hseen, houtputs, haddr⟩ := h
  have ht := congrArg (withUnseen · ⟨t.addr, t.freeCount, t.requests, t.out, t.stmts⟩) hseen.symm
  exact ⟨_, ht, houtputs, haddr⟩

section Stages

variable {u : Unseen}

theorem sameRun_raise (c : ECode) (i : Info) (l : Loc) : SameRun (s.raise c i l) ((withUnseen s u).raise c i l) :=
  ⟨rfl, nofun, nofun⟩

/-- Two states that take the same branch of a check. -/
theorem sameRun_ite {c c' : Prop} [Decidable c] [Decidable c'] {x x' y y' : State} (hc : c ↔ c') (hx : SameRun x x')
    (hy : SameRun y y') : SameRun (if c then x else y) (if c' then x' else y') := by
  by_cases h : c
  · rwa [if_pos h, if_pos (hc.1 h)]
  · rwa [if_neg h, if_neg (mt hc.2 h)]

variable (hu : Fits s u)
include hu

/-! ### The encoder's stages -/

theorem setArch_sameRun (all : List Stmt) (n : Int) : SameRun (setArch all n s) (setArch all n (withUnseen s u)) := by
  unfold setArch
  split
  · exact sameRun_raise ..
  · rename_i a coerced _
    cases coerced <;> exact ⟨rfl, hu.outputs, nofun⟩

theorem scanStep_sameRun (all todo : List Stmt) (archv : Option Int) :
    SameRun (scanStep all todo archv s) (scanStep all todo archv (withUnseen s u)) := by
  simp only [scanStep]
  split
  · split
    · exact sameRun_raise ..
    · exact ⟨rfl, hu.outputs, nofun⟩
  · simp only [withUnseen]
    split
    · exact sameRun_raise ..
    · exact ⟨rfl, hu.outputs, nofun⟩
  · exact ⟨rfl, hu.outputs, nofun⟩
  · exact ⟨rfl, hu.outputs, nofun⟩
  · split
    · exact sameRun_raise ..
    · exact setArch_sameRun hu ..

omit hu in
theorem applyEvents_withUnseen (isEntry : Bool) (loc : Option Nat) (es : List Event) :
    applyEvents isEntry loc (withUnseen s u) es = withUnseen (applyEvents isEntry loc s es) u := by
  refine (List.foldl_hom (withUnseen · u) fun s e => ?_)
  cases e with
  | warn c i => rfl
  | insn x =>
    cases h : warnsReturnAfterJump s.records x.mnem <;>
      simp [applyEvent, State.appendInsn, State.warn, withUnseen, h]

theorem settle_sameRun (g : Gen Unit) (isEntry : Bool) (loc : Option Nat) {next : Task} (hn : ∀ k, next ≠ .assign k) :
    SameRun (settle g isEntry loc next s) (settle g isEntry loc next (withUnseen s u)) := by
  obtain ⟨ws, rs, hs, -⟩ := applyEvents_spec isEntry loc s g.events
  simp only [settle, applyEvents_withUnseen, hs]
  split
  · exact ⟨rfl, hu.outputs, fun k hk => absurd hk (hn k)⟩
  · exact sameRun_raise ..

theorem placeStep_sameRun (all : List Stmt) : SameRun (placeStep all s) (placeStep all (withUnseen s u)) := by
  simp only [placeStep, withUnseen]
  split
  · exact ⟨rfl, hu.outputs, nofun⟩
  · split
    · exact sameRun_raise ..
    · exact settle_sameRun (s := { s with records := [] }) ⟨hu.outputs, hu.addr⟩ _ _ _ nofun

theorem generateStatement_sameRun (g : Params → Arch → Gen Unit) (todo : List Stmt) :
    SameRun (generateStatement g todo s) (generateStatement g todo (withUnseen s u)) := by
  simp only [generateStatement, withUnseen]
  split
  · exact sameRun_raise ..
  · exact settle_sameRun hu _ _ _ nofun

theorem startPassStep_sameRun : SameRun (startPassStep s) (startPassStep (withUnseen s u)) :=
  sameRun_ite .rfl (sameRun_raise (s := { s with passes := s.passes + 1 }) ..) ⟨rfl, hu.outputs, fun _ _ => rfl⟩

theorem assignStep_sameRun {k : Nat} (ht : s.task = .assign k) :
    SameRun (assignStep k s) (assignStep k (withUnseen s u)) := by
  have haddr : s.addr = u.addr := hu.addr k ht
  simp only [assignStep, withUnseen, ← haddr]
  split
  · exact ⟨rfl, hu.outputs, nofun⟩
  · exact ⟨rfl, hu.outputs, fun _ _ => rfl⟩
  · exact ⟨rfl, hu.outputs, fun _ _ => rfl⟩

theorem elideStep_sameRun : SameRun (elideStep s) (elideStep (withUnseen s u)) := by
  simp only [elideStep, withUnseen]
  split
  · exact ⟨rfl, hu.outputs, nofun⟩
  · split
    · exact sameRun_raise ..
    · split
      · exact sameRun_raise ..
      · split
        · exact ⟨rfl, hu.outputs, nofun⟩
        · exact ⟨rfl, hu.outputs, nofun⟩

theorem resolveStep_sameRun (k : Nat) : SameRun (resolveStep k s) (resolveStep k (withUnseen s u)) := by
  simp only [resolveStep, withUnseen]
  split
  · exact ⟨rfl, hu.outputs, nofun⟩
  · exact ⟨rfl, hu.outputs, nofun⟩
  · split
    · exact sameRun_raise ..
    · split
      · exact ⟨rfl, hu.outputs, nofun⟩
      · exact sameRun_raise (s := { s with records := _ }) ..

theorem Fits.append (bs : List Byte) (hf : s.fatal = none) : s.out ++ bs = u.out ++ bs ∧ s.stmts = u.stmts :=
  (hu.outputs hf).imp_left (congrArg (· ++ bs))

omit hu in
/-- Emission without a revision is a state the invariants forbid. -/
theorem emitHeadStep_internal (ha : s.cfg.arch = none) : emitHeadStep s = s.raiseInternal := by
  simp only [emitHeadStep, ha]

theorem emitHeadStep_sameRun : SameRun (emitHeadStep s) (emitHeadStep (withUnseen s u)) := by
  cases ha : s.cfg.arch with
  | none =>
    rw [emitHeadStep_internal ha, emitHeadStep_internal (s := withUnseen s u) ha]
    exact sameRun_raise ..
  | some a =>
    rw [emitHeadStep_eq ha, emitHeadStep_eq (s := withUnseen s u) ha]
    exact ⟨rfl, hu.append _, nofun⟩

theorem emitWordStep_sameRun (k : Nat) : SameRun (emitWordStep k s) (emitWordStep k (withUnseen s u)) := by
  simp only [emitWordStep, withUnseen]
  split
  · exact ⟨rfl, hu.outputs, nofun⟩
  · exact ⟨rfl, hu.outputs, nofun⟩
  · split
    · exact sameRun_raise ..
    · simp only [emitInsn]
      split
      · split
        · exact ⟨rfl, hu.append _, nofun⟩
        · exact ⟨rfl, hu.append _, nofun⟩
      · exact sameRun_raise (s := { s with task := _ }) ..

/-! ### The decoder's stages -/

theorem ingestStep_sameRun (bs : List Byte) : SameRun (ingestStep bs s) (ingestStep bs (withUnseen s u)) := by
  simp only [ingestStep, withUnseen]
  split
  · exact sameRun_raise ..
  · exact ⟨rfl, hu.outputs, nofun⟩

theorem unpackStep_sameRun (body : List Byte) : SameRun (unpackStep body s) (unpackStep body (withUnseen s u)) := by
  simp only [unpackStep, withUnseen]
  split
  · exact sameRun_raise ..
  · refine sameRun_ite .rfl ⟨rfl, hu.outputs, nofun⟩ (sameRun_ite .rfl (sameRun_raise ..) ?_)
    exact sameRun_ite .rfl ⟨rfl, hu.outputs, nofun⟩ (sameRun_raise ..)

omit hu in
/-- A target check stops both states or marks the same targets in both. -/
theorem recordTarget_withUnseen (o : Option Operand) (k : Nat) (s : State) (u : Unseen) :
    (∃ c i l, recordTarget o k s = (s.raise c i l, false) ∧
        recordTarget o k (withUnseen s u) = ((withUnseen s u).raise c i l, false)) ∨
      ∃ ts, recordTarget o k s = ({ s with targets := ts }, true) ∧
        recordTarget o k (withUnseen s u) = ({ withUnseen s u with targets := ts }, true) := by
  unfold recordTarget
  split
  · exact .inr ⟨_, rfl, rfl⟩
  · rename_i t
    by_cases h : s.count ≤ t
    · exact .inl ⟨_, _, _, if_pos h, if_pos h⟩
    · exact .inr ⟨_, if_neg h, if_neg h⟩
  · exact .inl ⟨_, _, _, rfl, rfl⟩

theorem deliver_sameRun (i : Instr) (r : Recipe) (k : Nat) :
    SameRun (deliver i r k s) (deliver i r k (withUnseen s u)) := by
  cases ha : s.cfg.arch with
  | none =>
    rw [deliver_internal (.inl ha), deliver_internal (s := withUnseen s u) (.inl ha)]
    exact sameRun_raise ..
  | some a =>
    cases hw : s.words[k]? with
    | none =>
      rw [deliver_internal (.inr hw), deliver_internal (s := withUnseen s u) (.inr hw)]
      exact sameRun_raise ..
    | some w =>
      obtain ⟨c, i, l, hs, ht⟩ | ⟨ts, hs, ht⟩ := recordTarget_withUnseen r.target k
        { s with warnings := s.warnings ++ logged (.word k) (lrWarnings s.cfg.params (Decode.unpack a w) r.lrSlots) } u
      · rw [deliver_stops ha hw hs, deliver_stops (s := withUnseen s u) ha hw ht]
        exact sameRun_raise ..
      · rw [deliver_ok ha hw hs, deliver_ok (s := withUnseen s u) ha hw ht]
        exact ⟨rfl, hu.outputs, nofun⟩

theorem nameLabelsStep_sameRun : SameRun (nameLabelsStep s) (nameLabelsStep (withUnseen s u)) := by
  simp only [nameLabelsStep, withUnseen]
  split
  · exact sameRun_raise ..
  · exact ⟨rfl, fun hf => ⟨(hu.outputs hf).1, rfl⟩, nofun⟩

theorem buildStep_sameRun (k : Nat) : SameRun (buildStep k s) (buildStep k (withUnseen s u)) := by
  simp only [buildStep, withUnseen]
  split
  · exact ⟨rfl, hu.outputs, nofun⟩
  · exact ⟨rfl, fun hf => (hu.outputs hf).imp_right (congrArg (· ++ _)), nofun⟩

/-! ### The serializer's stages -/

theorem expandStep_sameRun (todo : List InitvalOp) (j : Nat) :
    SameRun (expandStep todo j s) (expandStep todo j (withUnseen s u)) := by
  simp only [expandStep]
  split
  · exact ⟨rfl, hu.outputs, nofun⟩
  · split
    · exact sameRun_raise ..
    · exact ⟨rfl, hu.outputs, nofun⟩

theorem checkOffsetStep_sameRun (k : Nat) : SameRun (checkOffsetStep k s) (checkOffsetStep k (withUnseen s u)) := by
  simp only [checkOffsetStep, withUnseen]
  split
  · exact ⟨rfl, hu.outputs, nofun⟩
  · exact sameRun_ite .rfl (sameRun_raise ..) ⟨rfl, hu.outputs, nofun⟩

theorem ivsHeadStep_sameRun : SameRun (ivsHeadStep s) (ivsHeadStep (withUnseen s u)) := by
  simp only [ivsHeadStep, withUnseen]
  split
  · exact ⟨rfl, hu.append _, nofun⟩
  · exact ⟨rfl, hu.outputs, nofun⟩

theorem ivsRecordStep_sameRun (k : Nat) : SameRun (ivsRecordStep k s) (ivsRecordStep k (withUnseen s u)) := by
  simp only [ivsRecordStep, withUnseen]
  split
  · exact ⟨rfl, hu.append _, nofun⟩
  · split
    · exact ⟨rfl, hu.outputs, nofun⟩
    · exact ⟨rfl, hu.append _, nofun⟩

/-! ### The step -/

/-- Two outcomes that go on, in states of one run. -/
def Agree (o o' : Host.Outcome State Fault Refusal) : Prop := ∃ s' t', o = .next s' ∧ o' = .next t' ∧ SameRun s' t'

/-- Two fetches that find the same instruction, or that are done in states of one run. -/
inductive SameFetch : Fetched → Fetched → Prop
  | run (i : Instr) : SameFetch (.run i) (.run i)
  | done {s' t' : State} : SameRun s' t' → SameFetch (.done s') (.done t')

theorem fetchStatement_sameFetch (todo : List Stmt) :
    SameFetch (fetchStatement todo s) (fetchStatement todo (withUnseen s u)) := by
  simp only [fetchStatement]
  split
  · exact .done ⟨rfl, hu.outputs, nofun⟩
  · split
    · exact .run _
    · exact .done (sameRun_raise ..)
  · exact .done ⟨rfl, hu.outputs, nofun⟩
  · exact .done ⟨rfl, hu.outputs, nofun⟩
  · exact .done ⟨rfl, hu.outputs, nofun⟩

theorem fetchWord_sameFetch (k : Nat) : SameFetch (fetchWord k s) (fetchWord k (withUnseen s u)) := by
  simp only [fetchWord, withUnseen]
  split
  · exact .done (sameRun_raise ..)
  · exact .done ⟨rfl, hu.outputs, nofun⟩
  · split
    · exact .run _
    · exact .done (sameRun_raise ..)

theorem exec_generate_agree {todo : List Stmt} (ht : s.task = .generate todo) (i : Instr) :
    Agree (exec i s) (exec i (withUnseen s u)) :=
  ⟨_, _, exec_generate ht, exec_generate (s := withUnseen s u) ht, generateStatement_sameRun hu _ _⟩

theorem exec_classify_agree {k : Nat} (ht : s.task = .classify k) (i : Instr) :
    Agree (exec i s) (exec i (withUnseen s u)) := by
  refine ⟨_, _, exec_classify ht, exec_classify (s := withUnseen s u) ht, ?_⟩
  simp only [withUnseen]
  split
  · exact deliver_sameRun hu _ _ _
  · exact sameRun_raise ..

omit hu in
theorem runFetched_agree {f f' : Fetched} {t : State} (hf : SameFetch f f') (hrun : ∀ i, Agree (exec i s) (exec i t)) :
    Agree (runFetched f s) (runFetched f' t) := by
  cases hf with
  | run i => exact hrun i
  | done h => exact ⟨_, _, rfl, rfl, h⟩

/-- A step of a running unit reads no unseen field. -/
theorem step_agree (hrun : s.task ≠ .idle) : Agree (step s) (step (withUnseen s u)) := by
  unfold step
  rw [show (withUnseen s u).task = s.task from rfl]
  cases ht : s.task with
  | idle => exact absurd ht hrun
  | scan all todo archv => exact ⟨_, _, rfl, rfl, scanStep_sameRun hu all todo archv⟩
  | place all => exact ⟨_, _, rfl, rfl, placeStep_sameRun hu all⟩
  | generate todo => exact runFetched_agree (fetchStatement_sameFetch hu todo) (exec_generate_agree hu ht)
  | startPass => exact ⟨_, _, rfl, rfl, startPassStep_sameRun hu⟩
  | assign k => exact ⟨_, _, rfl, rfl, assignStep_sameRun hu ht⟩
  | elide => exact ⟨_, _, rfl, rfl, elideStep_sameRun hu⟩
  | resolve k => exact ⟨_, _, rfl, rfl, resolveStep_sameRun hu k⟩
  | emitHead => exact ⟨_, _, rfl, rfl, emitHeadStep_sameRun hu⟩
  | emitWord k => exact ⟨_, _, rfl, rfl, emitWordStep_sameRun hu k⟩
  | ingest bytes => exact ⟨_, _, rfl, rfl, ingestStep_sameRun hu bytes⟩
  | unpack body => exact ⟨_, _, rfl, rfl, unpackStep_sameRun hu body⟩
  | classify k => exact runFetched_agree (fetchWord_sameFetch hu k) (exec_classify_agree hu ht)
  | nameLabels => exact ⟨_, _, rfl, rfl, nameLabelsStep_sameRun hu⟩
  | build k => exact ⟨_, _, rfl, rfl, buildStep_sameRun hu k⟩
  | expand todo j => exact ⟨_, _, rfl, rfl, expandStep_sameRun hu todo j⟩
  | checkOffset k => exact ⟨_, _, rfl, rfl, checkOffsetStep_sameRun hu k⟩
  | ivsHead => exact ⟨_, _, rfl, rfl, ivsHeadStep_sameRun hu⟩
  | ivsRecord k => exact ⟨_, _, rfl, rfl, ivsRecordStep_sameRun hu k⟩

end Stages

/-! ### A block at rest -/

theorem takeRequest_nil (hr : s.requests = []) : takeRequest s = s := by simp only [takeRequest, hr]

/-- Runs requested under the same configuration, the revision apart, start in states of one run. -/
theorem newRun_sameRun {t : State} (hcfg : { s.cfg with arch := none } = { t.cfg with arch := none }) (arch : Option Arch)
    (rest rest' : List Request) {T : Task} (hT : ∀ k, T ≠ .assign k) :
    SameRun { s.newRun with cfg := { s.cfg with arch := arch }, requests := rest, task := T }
      { t.newRun with cfg := { t.cfg with arch := arch }, requests := rest', task := T } :=
  ⟨congrArg (fun c : Cfg => { s.newRun with
      cfg := { c with arch := arch }, task := T, addr := 0, freeCount := 0, requests := [], out := [], stmts := [] }) hcfg,
    fun _ => ⟨rfl, rfl⟩, fun k hk => absurd hk (hT k)⟩

/-! ### A step goes on -/

/-- A fetch goes on when every instruction it can find does. -/
theorem runFetched_goesOn (f : Fetched) (hrun : ∀ i, ∃ t, exec i s = .next t) : ∃ t, runFetched f s = .next t := by
  cases f with
  | run i => exact hrun i
  | done t => exact ⟨t, rfl⟩

/-! ### The obligations -/

/-- Settles O3: a fatal error leaves the block at rest, where without a request nothing changes. -/
theorem fatalErrorStopsTheUnit : Obligations.FatalErrorStopsTheUnit := by
  intro s c i l
  refine ⟨rfl, rfl, rfl, rfl, rfl, fun hr => ?_⟩
  rw [step_idle rfl, takeRequest_nil (s := s.raise c i l) hr]

/-- Settles O57: only generation and classification run an instruction, and both are at one; every other stage is one update
of the state. -/
theorem everyStepGoesOn : Obligations.EveryStepGoesOn := by
  intro s
  cases ht : s.task with
  | generate todo =>
    rw [StepGoesOn, step_generate ht]
    exact runFetched_goesOn _ fun i => ⟨_, exec_generate ht⟩
  | classify k =>
    rw [StepGoesOn, step_classify ht]
    exact runFetched_goesOn _ fun i => ⟨_, exec_classify ht⟩
  | _ => simp [StepGoesOn, step, ht]

/-- Settles O2: each request for a run is taken at rest and starts from `State.newRun`. -/
theorem requestedRunSeesNothingOfAnEarlierRun : Obligations.RequestedRunSeesNothingOfAnEarlierRun := by
  intro s rest ht
  rw [step_idle ht]
  refine ⟨fun stmts hr => ?_, fun a bytes hr => ?_, fun name ops hr => ?_⟩
  · simp only [takeRequest, hr]
  · simp only [takeRequest, hr, State.newRun_cfg]
  · simp only [takeRequest, hr]

/-- Settles O58: a requested run starts from the reset values and the configuration; from then on no step reads an unseen
field. -/
theorem runsOnTheSameInputAgree : Obligations.RunsOnTheSameInputAgree := by
  refine ⟨fun s t r rest rest' hs ht hr hsr htr hcfg => ?_, fun s t hrun h => ?_⟩
  · obtain ⟨hsenc, hsdec, hsivs⟩ := requestedRunSeesNothingOfAnEarlierRun s rest hs
    obtain ⟨htenc, htdec, htivs⟩ := requestedRunSeesNothingOfAnEarlierRun t rest' ht
    obtain ⟨stmts, rfl⟩ | ⟨a, bytes, rfl⟩ | ⟨name, ops, rfl⟩ := hr
    · exact ⟨_, _, hsenc _ hsr, htenc _ htr, newRun_sameRun hcfg none rest rest' nofun⟩
    · exact ⟨_, _, hsdec _ _ hsr, htdec _ _ htr, newRun_sameRun hcfg (some a) rest rest' nofun⟩
    · exact ⟨_, _, hsivs _ _ hsr, htivs _ _ htr, newRun_sameRun hcfg none rest rest' nofun⟩
  · obtain ⟨u, rfl, hu⟩ := exists_fits_of_sameRun h
    exact step_agree hu hrun

end Sys2Proof.Laws.Runs
